-- ==== Sys2Proof/Word.lean ====
section
/-! DEFINITION. The words that cross QCORE's boundary (rules R7, R51, R52): their widths and nothing else. -/

namespace Sys2Proof

/-- A 192-bit word: a UQ128.64 value (meaning `v / 2^64`, R13) or a plain integer in a 192-bit field (R14). -/
abbrev Word := BitVec 192

/-- The 8-bit opcode field OP (R7, R51). -/
abbrev Opcode := BitVec 8

/-- The 4-bit status field STS (R7, R52). -/
abbrev StatusWord := BitVec 4

/-- The packed command CMD, 392 bits (R51). -/
abbrev CommandWord := BitVec 392

/-- The packed response RSP, 196 bits (R52). -/
abbrev ResponseWord := BitVec 196

end Sys2Proof
end

