-- ==== Sys2Proof/Config.lean ====
section
/-! DEFINITION. What is fixed when the core is built: the hardwired constants (R11) and the parameter POW_VARIANT (R8). -/

namespace Sys2Proof

/-- ONE, the UQ encoding of the integer 1 (R11). -/
abbrev one : Nat := 2 ^ 64

/-- MAX_UQINT, the largest UQ value (R11). -/
abbrev maxUq : Nat := 2 ^ 192 - 1

/-- MAX_CONVERTIBLE_UINT256, written MAXC: the largest plain integer INTTOQ converts (R11). -/
abbrev maxConvertible : Nat := 2 ^ 128 - 1

/-- The two schedules of QPOW that POW_VARIANT selects from (R8). -/
inductive PowVariant where
  /-- RTL_GUARDED: the base is squared only while higher exponent bits remain. -/
  | rtlGuarded
  /-- RTL_UNGUARDED: the base is squared after every exponent bit, including the last. -/
  | rtlUnguarded
  deriving DecidableEq, Repr

/-- The parameters of one build of the core. No command reads or writes them (R25, R164). -/
structure Config where
  powVariant : PowVariant
  deriving DecidableEq, Repr

/-- The default build: "`RTL_GUARDED` is the default" (R8). -/
def Config.standard : Config := ⟨.rtlGuarded⟩

end Sys2Proof
end

