-- ==== Sys2Proof/Syntax.lean ====
section
/-! DEFINITION. Commands (R50) and the ten instructions of the opcode table, one constructor per row (R55). -/

namespace Sys2Proof

/-- A command: an opcode field and two operand fields, whatever the opcode (R50). -/
structure Command where
  op : Opcode
  a : Word
  b : Word
  deriving DecidableEq, Repr

/-- The instructions. Every one carries both operands, since every command has both fields (R50); the
unary ones ignore `b` (R53, R54). -/
inductive Instr where
  /-- INTTOQ n: plain integer to UQ value (R70). -/
  | inttoq (n b : Word)
  /-- QTOINT x: lossless UQ value to plain integer (R72). -/
  | qtoint (x b : Word)
  /-- QTOINTL x: lossy UQ value to plain integer (R74). -/
  | qtointl (x b : Word)
  /-- QFLOOR x: round down to an integral UQ value (R76). -/
  | qfloor (x b : Word)
  /-- QCEIL x: round up to an integral UQ value (R78). -/
  | qceil (x b : Word)
  /-- QADD a, b (R90). -/
  | qadd (a b : Word)
  /-- QSUB a, b (R92). -/
  | qsub (a b : Word)
  /-- QMUL a, b (R101). -/
  | qmul (a b : Word)
  /-- QDIV a, b (R111). -/
  | qdiv (a b : Word)
  /-- QPOW base, e (R121). -/
  | qpow (base e : Word)
  deriving DecidableEq, Repr

end Sys2Proof
end

