-- ==== Sys2Proof/WellFormed.lean ====
section
/-! DEFINITION. Well-formedness. A command on the port has fields of fixed widths and "every value of A and B is legal
for every opcode" (R61), so an `Instr` needs no check: its operands are 192-bit words by type. What can be ill-formed
is a raw request written as naturals, before it is put on the port: the three fields must fit (R7, R59). -/

namespace Sys2Proof

/-- A command as the assembler or a host program writes it, in naturals (R59: `.cmd OP, A, B`). -/
structure Request where
  op : Nat
  a : Nat
  b : Nat
  deriving DecidableEq, Repr

/-- Why a request cannot be put on the port. -/
inductive IllFormed where
  /-- OP does not fit the 8-bit opcode field (R7). -/
  | opcodeTooWide
  /-- A is above 2^192 - 1 (R53, R59). -/
  | operandATooWide
  /-- B is above 2^192 - 1 (R53, R59). -/
  | operandBTooWide
  deriving DecidableEq, Repr

/-- The check of the three fields, naming the first that does not fit. -/
def Request.check (r : Request) : Except IllFormed Unit :=
  if 2 ^ 8 ≤ r.op then .error .opcodeTooWide
  else if maxUq < r.a then .error .operandATooWide
  else if maxUq < r.b then .error .operandBTooWide
  else .ok ()

/-- The request fits the port. -/
def Request.wellFormed (r : Request) : Bool :=
  decide (r.op < 2 ^ 8) && decide (r.a ≤ maxUq) && decide (r.b ≤ maxUq)

/-- The command a request puts on the port. Meaningful for a well-formed request. -/
def Request.command (r : Request) : Command :=
  ⟨BitVec.ofNat 8 r.op, BitVec.ofNat 192 r.a, BitVec.ofNat 192 r.b⟩

end Sys2Proof
end

