-- ==== Sys2Proof/Decode.lean ====
section
/-! DEFINITION. The opcode table, the packed words CMD and RSP, the decoder (total, rejecting by name) and the encoder. -/

namespace Sys2Proof

/-- A row of the opcode table: a command word belongs to it when `CMD AND mask = match`, both read on OP. -/
structure OpcodeRow where
  mnemonic : String
  value : Opcode
  mask : Opcode
  deriving DecidableEq, Repr

/-- The opcode map of R55 (`spec/opcode_table.json`), in its order. -/
def opcodeTable : List OpcodeRow :=
  [⟨"INTTOQ", 0x01, 0xFF⟩, ⟨"QTOINT", 0x02, 0xFF⟩, ⟨"QTOINTL", 0x03, 0xFF⟩, ⟨"QFLOOR", 0x04, 0xFF⟩,
   ⟨"QCEIL", 0x05, 0xFF⟩, ⟨"QADD", 0x06, 0xFF⟩, ⟨"QSUB", 0x07, 0xFF⟩, ⟨"QMUL", 0x08, 0xFF⟩,
   ⟨"QDIV", 0x09, 0xFF⟩, ⟨"QPOW", 0x0A, 0xFF⟩]

/-- Whether a row of the table matches an opcode field. -/
def OpcodeRow.matches (r : OpcodeRow) (op : Opcode) : Bool := op &&& r.mask == r.value

/-- CMD = (B << 200) + (A << 8) + OP (R51). -/
def Command.pack (c : Command) : CommandWord :=
  BitVec.ofNat 392 (c.b.toNat * 2 ^ 200 + c.a.toNat * 2 ^ 8 + c.op.toNat)

/-- The fields of the bits of a command: OP is bits 7:0, A is bits 199:8, B is bits 391:200 (R51). -/
def Command.ofBits (v : Nat) : Command :=
  ⟨BitVec.ofNat 8 v, BitVec.ofNat 192 (v / 2 ^ 8), BitVec.ofNat 192 (v / 2 ^ 200)⟩

/-- The fields of CMD (R51). -/
def Command.unpack (w : CommandWord) : Command := Command.ofBits w.toNat

/-- RSP = (RES << 4) + STS (R52). -/
def packResponse (sts : StatusWord) (res : Word) : ResponseWord :=
  BitVec.ofNat 196 (res.toNat * 2 ^ 4 + sts.toNat)

/-- STS, bits 3:0 of RSP (R52). -/
def responseStatus (w : ResponseWord) : StatusWord := BitVec.ofNat 4 w.toNat

/-- RES, bits 195:4 of RSP (R52). -/
def responseResult (w : ResponseWord) : Word := BitVec.ofNat 192 (w.toNat / 2 ^ 4)

/-- Why the decoder answers no instruction. -/
inductive DecodeError where
  /-- OP is reserved: 0x00 or 0x0B to 0xFF (R57). The machine completes such a command with ILLEGAL_OPCODE (R146). -/
  | reservedOpcode (op : Opcode)
  deriving DecidableEq, Repr

/-- The decoder: only OP selects the operation (R58), and every operand value is legal (R61). -/
def decode (c : Command) : Except DecodeError Instr :=
  match c.op.toNat with
  | 0x01 => .ok (.inttoq c.a c.b)
  | 0x02 => .ok (.qtoint c.a c.b)
  | 0x03 => .ok (.qtointl c.a c.b)
  | 0x04 => .ok (.qfloor c.a c.b)
  | 0x05 => .ok (.qceil c.a c.b)
  | 0x06 => .ok (.qadd c.a c.b)
  | 0x07 => .ok (.qsub c.a c.b)
  | 0x08 => .ok (.qmul c.a c.b)
  | 0x09 => .ok (.qdiv c.a c.b)
  | 0x0A => .ok (.qpow c.a c.b)
  | _ => .error (.reservedOpcode c.op)

/-- The decoder on the packed word. -/
def decodeWord (w : CommandWord) : Except DecodeError Instr := decode (Command.unpack w)

/-- The opcode of an instruction (R55). -/
def Instr.opcode : Instr → Opcode
  | .inttoq _ _ => 0x01
  | .qtoint _ _ => 0x02
  | .qtointl _ _ => 0x03
  | .qfloor _ _ => 0x04
  | .qceil _ _ => 0x05
  | .qadd _ _ => 0x06
  | .qsub _ _ => 0x07
  | .qmul _ _ => 0x08
  | .qdiv _ _ => 0x09
  | .qpow _ _ => 0x0A

/-- Operand A of an instruction (R53). -/
def Instr.operandA : Instr → Word
  | .inttoq n _ => n
  | .qtoint x _ => x
  | .qtointl x _ => x
  | .qfloor x _ => x
  | .qceil x _ => x
  | .qadd a _ => a
  | .qsub a _ => a
  | .qmul a _ => a
  | .qdiv a _ => a
  | .qpow base _ => base

/-- Operand B of an instruction (R53). -/
def Instr.operandB : Instr → Word
  | .inttoq _ b => b
  | .qtoint _ b => b
  | .qtointl _ b => b
  | .qfloor _ b => b
  | .qceil _ b => b
  | .qadd _ b => b
  | .qsub _ b => b
  | .qmul _ b => b
  | .qdiv _ b => b
  | .qpow _ e => e

/-- The command that carries an instruction. -/
def Instr.command (i : Instr) : Command := ⟨i.opcode, i.operandA, i.operandB⟩

/-- The encoder: the packed command word of an instruction (R51, R55). -/
def encode (i : Instr) : CommandWord := i.command.pack

/-- The bits of a table word of `nbits` bits, numbered as the opcode table numbers them: bit 0 is the least significant
bit of OP, and bits above `nbits` are 0. A command has 392 bits. DESIGN CHOICE, safe (log 8). -/
def tableBits (nbits w : Nat) : Nat := if nbits < 392 then w % 2 ^ nbits else w

/-- The instruction the decoder reads from a table word. A number that does not fit the 392 bits of CMD is no command. -/
def decodeTableWord (nbits w : Nat) : Option Instr :=
  if tableBits nbits w / 2 ^ 200 < 2 ^ 192 then
    match decode (Command.ofBits (tableBits nbits w)) with
    | .ok i => some i
    | .error _ => none
  else none

end Sys2Proof
end

