-- ==== Sys2Proof/Machine/State.lean ====
section
/-! DEFINITION. State as plain data: the registers of R23, the input ports of R22 with what the host and the scheduler
drive (R28, R35), and the build parameter; the reset state (R160); why a step can stop. DESIGN CHOICE: what drives the core
is data in State (logs 1 to 3). -/

namespace Sys2Proof.Machine

/-- The outcome of a command: OK, the nine error kinds, and ILLEGAL_OPCODE (R140). -/
inductive Status where
  | ok
  | conversionOverflow
  | truncatingDecimals
  | additionOverflow
  | subtractionUnderflow
  | multiplicationOverflow
  | divisorZero
  | divisionOverflow
  | ceilOverflow
  | exponentiationOverflow
  | illegalOpcode
  deriving DecidableEq, Repr

/-- What EXEC returns: a status and a result (R56). -/
structure Response where
  status : Status
  result : Word
  deriving DecidableEq, Repr

/-- The levels on the input ports during one step (R22), and the scheduler's choice for that step (R35). -/
structure Drive where
  /-- Port `rst`. -/
  rst : Bool
  /-- Port `req_valid`: a command is presented. -/
  reqValid : Bool
  /-- Port `req_op`. -/
  reqOp : Opcode
  /-- Port `req_a`. -/
  reqA : Word
  /-- Port `req_b`. -/
  reqB : Word
  /-- The scheduler lets a command in flight go on for this step: LATENCY is not over (R9, R27). Not a port.
  DESIGN CHOICE, safe (log 2). -/
  stall : Bool
  deriving DecidableEq, Repr

/-- Nothing is driven: no reset, no command presented, a command in flight completes. -/
def Drive.idle : Drive := ⟨false, false, 0, 0, 0, false⟩

/-- The machine (R35), what drives it, and its build. -/
structure State where
  /-- RES: result of the last completed command (R23). -/
  res : Word
  /-- STS: status code of the last completed command (R23, R24). -/
  sts : StatusWord
  /-- BUSY: a command is in flight (R23). -/
  busy : Bool
  /-- DONE: RES and STS hold the response of the most recently accepted command (R23). -/
  done : Bool
  /-- OPL: latched opcode of the command in flight (R23, R30). -/
  opl : Opcode
  /-- AL: latched operand A (R23, R30). -/
  al : Word
  /-- BL: latched operand B (R23, R30). -/
  bl : Word
  /-- What drives the ports at this step (R22, R28). -/
  now : Drive
  /-- What drives the ports at the steps after this one; past its end nothing is driven. -/
  later : List Drive
  /-- The build of this core, the parameter of the whole run (R8, R164). -/
  cfg : Config
  deriving DecidableEq, Repr

/-- The state right after reset (R160), in the default build (R8), with nothing driven. DESIGN CHOICE, unsafe: the drives
(log 1); the seven registers are the spec's. -/
def State.reset : State where
  res := 0
  sts := 0
  busy := false
  done := false
  opl := 0
  al := 0
  bl := 0
  now := .idle
  later := []
  cfg := .standard

/-- What can happen in one step: at most one of the spec's events (R26, R27, R160). -/
inductive Event where
  /-- RESET: `rst` is 1 (R160). -/
  | reset
  /-- STS holds a code that is never written: the state is broken. -/
  | brokenStatus
  /-- COMPLETE (R27). -/
  | complete
  /-- A command is in flight and its LATENCY is not over (R27). -/
  | wait
  /-- ACCEPT (R26). -/
  | accept
  /-- No event is enabled: the core is idle (R154). -/
  | idle
  deriving DecidableEq, Repr

/-- Why a step stops with a fault. -/
inductive Fault where
  /-- Raised by `step` in a state whose STS is one of 10 to 14, which "is never written: `fault`" (R140 and
  `93_implementation_defined.md` section 2). Safe: no state that a run from reset reaches holds one. -/
  | reservedStatus
  deriving DecidableEq, Repr

/-- Why no meaning is given. Of these only `notModelled` could be raised by `exec`; the others are the host side's. -/
inductive Refusal where
  /-- Raised by `exec` for an instruction without a meaning yet: none. Safe. -/
  | notModelled (mnemonic : String)
  /-- Raised by the host-side read of RES and STS while DONE = 0 (R165, 93 section 2). Safe. -/
  | staleResponse
  /-- Raised by the assembler and the host script for an operand above 2^192 - 1 (R59). Safe. -/
  | operandTooWide
  /-- Raised by the assembler for an OP of `.cmd` that does not fit 8 bits (R59). Safe. -/
  | opcodeTooWide
  /-- Raised by the assembler for a line outside the syntax of R59 and R60. Safe. -/
  | badSyntax
  /-- Raised by the host script for a variable that no line has set (R60 gives it no value). Safe. -/
  | unboundVariable
  /-- Raised by the host script for a branch to a label that no line carries (R60). Safe. -/
  | unknownLabel
  /-- Raised by the host script when it runs past its last line without HALT (R60 gives no meaning). Safe. -/
  | endOfScript
  deriving DecidableEq, Repr

end Sys2Proof.Machine
end

