-- ==== Sys2Proof/Machine/Flags.lean ====
section
/-! DEFINITION. STS, the only status register (R24): the code of each outcome and which codes are legal (R140). -/

namespace Sys2Proof.Machine

/-- The status codes (R140). -/
def Status.code : Status → StatusWord
  | .ok => 0
  | .conversionOverflow => 1
  | .truncatingDecimals => 2
  | .additionOverflow => 3
  | .subtractionUnderflow => 4
  | .multiplicationOverflow => 5
  | .divisorZero => 6
  | .divisionOverflow => 7
  | .ceilOverflow => 8
  | .exponentiationOverflow => 9
  | .illegalOpcode => 15

/-- The legal values of STS: 0, 1 to 9, and 15; "values 10 to 14 are never written" (R24). -/
def legalStatus (sts : StatusWord) : Bool := decide (sts.toNat ≤ 9) || sts == 15

end Sys2Proof.Machine
end

