-- ==== Sys2Proof/Machine/Ops.lean ====
section
/-! DEFINITION. The named operations over the registers and ports: how an operation ends (R143, R144), the outputs
(R29), the events ACCEPT, COMPLETE and RESET (R26, R27, R160), which event a state takes, and the host's reads. -/

namespace Sys2Proof.Machine

/-- `succeed(v)`: status OK and result v, for v <= MAX_UQINT (R143). -/
def succeed (v : Nat) : Response := ⟨.ok, BitVec.ofNat 192 v⟩

/-- `raise E`: the error's status and result 0, whatever was computed (R144). This is the whole of a failure: nothing is
saved, no mode changes and control stays with the host (R150). -/
def raise (e : Status) : Response := ⟨e, 0⟩

/-- `req_ready` = NOT BUSY (R29). -/
def State.reqReady (s : State) : Bool := !s.busy

/-- `rsp_done` = DONE (R29). -/
def State.rspDone (s : State) : Bool := s.done

/-- `rsp_sts` = STS (R29). -/
def State.rspSts (s : State) : StatusWord := s.sts

/-- `rsp_res` = RES (R29). -/
def State.rspRes (s : State) : Word := s.res

/-- The response word RSP on the response port (R52). -/
def State.rsp (s : State) : ResponseWord := packResponse s.rspSts s.rspRes

/-- The command on the request port (R22, R51). -/
def State.requested (s : State) : Command := ⟨s.now.reqOp, s.now.reqA, s.now.reqB⟩

/-- The latched command, which is the one in flight while BUSY = 1 (R23). -/
def State.latched (s : State) : Command := ⟨s.opl, s.al, s.bl⟩

/-- The condition of ACCEPT: `req_valid` = 1, `req_ready` = 1, `rst` = 0 (R26). -/
def State.acceptEnabled (s : State) : Bool := s.now.reqValid && s.reqReady && !s.now.rst

/-- The condition of COMPLETE: BUSY = 1, `rst` = 0 (R27). -/
def State.completeEnabled (s : State) : Bool := s.busy && !s.now.rst

/-- Time goes on by one step: the next drive reaches the ports. No register changes. -/
def State.advance (s : State) : State :=
  match s.later with
  | [] => { s with now := .idle }
  | d :: ds => { s with now := d, later := ds }

/-- ACCEPT (R26): the command is latched, BUSY is set, DONE is cleared; RES and STS are not changed. -/
def State.accept (c : Command) (s : State) : State :=
  { s with opl := c.op, al := c.a, bl := c.b, busy := true, done := false }

/-- COMPLETE (R27): the response is written, BUSY is cleared, DONE is set, in one change. -/
def State.complete (r : Response) (s : State) : State :=
  { s with sts := r.status.code, res := r.result, busy := false, done := true }

/-- COMPLETE of a command whose opcode is reserved: STS = 15, RES = 0, no other effect (R57, R146). -/
def State.completeIllegal (s : State) : State := s.complete (raise .illegalOpcode)

/-- RESET (R160): every register at its reset value. A command in flight is abandoned (R161). The build and what the
outside world drives are not the core's to reset (R164, R28). DESIGN CHOICE, unsafe: the zeros stand from the state after the
step on (log 4). -/
def State.resetRegisters (s : State) : State :=
  { s with res := 0, sts := 0, busy := false, done := false, opl := 0, al := 0, bl := 0 }

/-- Which event a state takes. RESET wins (R149); then at most one of ACCEPT and COMPLETE is enabled, and the scheduler
may put COMPLETE off (R27). DESIGN CHOICE, safe: one event a step (log 4), the fault before COMPLETE and ACCEPT (log 5). -/
def State.event (s : State) : Event :=
  if s.now.rst then .reset
  else if !legalStatus s.sts then .brokenStatus
  else if s.completeEnabled then (if s.now.stall then .wait else .complete)
  else if s.acceptEnabled then .accept
  else .idle

/-- The instruction in flight, as the decoder reads it from the latches. -/
def State.inFlight (s : State) : Except DecodeError Instr := decode s.latched

/-- The host reads the response of the command it issued last: refused while DONE = 0, since RES and STS are then not
that command's (R165, 93 section 2). Reading changes nothing (R43). DESIGN CHOICE, safe (log 11). -/
def State.readResponse (s : State) : Except Refusal (StatusWord × Word) :=
  if s.rspDone then .ok (s.rspSts, s.rspRes) else .error .staleResponse

/-- The result a host may use: STS is read first and any STS != 0 is a rejection (R167). -/
def State.acceptedResult (s : State) : Option Word :=
  match s.readResponse with
  | .ok (sts, res) => if sts = 0 then some res else none
  | .error _ => none

/-- The host puts a command on the request port for this step (R28). -/
def State.present (c : Command) (s : State) : State :=
  { s with now := { s.now with reqValid := true, reqOp := c.op, reqA := c.a, reqB := c.b } }

/-- The host puts a raw request on the port, refused by name when a field does not fit (R59, 93 section 2: "The port cannot
carry them"). -/
def State.presentRequest (r : Request) (s : State) : Except IllFormed State :=
  match r.check with
  | .ok _ => .ok (s.present r.command)
  | .error e => .error e

/-- The host presents nothing at this step (R28). -/
def State.withdraw (s : State) : State :=
  { s with now := { s.now with reqValid := false } }

/-- The command put straight into the latches, as its ACCEPT leaves it (R26), with nothing that keeps it from completing
at the next step. -/
def State.load (c : Command) (s : State) : State :=
  { s.accept c with now := { s.now with rst := false, stall := false } }

end Sys2Proof.Machine
end

