-- ==== Sys2Proof/Machine/Operands.lean ====
section
/-! DEFINITION. How operands are read (R53): slices of a word, the integer and fraction parts of a UQ value (R13), the
role each opcode gives its operands, and the shared multiply core QMUL_RAW (R100). -/

namespace Sys2Proof.Machine

/-- `v[hi:lo]`, the unsigned value of bits hi down to lo (R16). -/
def slice (v : Word) (hi lo : Nat) : Nat := v.toNat / 2 ^ lo % 2 ^ (hi + 1 - lo)

/-- `x[191:64]`, the integer part (R13). -/
def intPart (x : Word) : Nat := slice x 191 64

/-- `x[63:0]`, the fraction part (R13). -/
def fracPart (x : Word) : Nat := slice x 63 0

/-- `x[191:64] ++ 0^64`: x with its fraction cleared (R76). -/
def floorPart (x : Word) : Nat := intPart x * 2 ^ 64

/-- What an opcode takes an operand as (R53). -/
inductive Role where
  /-- A plain integer, not scaled (R14). -/
  | plainInteger
  /-- A UQ value (R13). -/
  | uqValue
  /-- Not read: every value gives the same response (R54). -/
  | ignored
  deriving DecidableEq, Repr

/-- The role of operand A (R53). -/
def roleA : Instr → Role
  | .inttoq _ _ => .plainInteger
  | .qtoint _ _ => .uqValue
  | .qtointl _ _ => .uqValue
  | .qfloor _ _ => .uqValue
  | .qceil _ _ => .uqValue
  | .qadd _ _ => .uqValue
  | .qsub _ _ => .uqValue
  | .qmul _ _ => .uqValue
  | .qdiv _ _ => .uqValue
  | .qpow _ _ => .uqValue

/-- The role of operand B (R53). -/
def roleB : Instr → Role
  | .inttoq _ _ => .ignored
  | .qtoint _ _ => .ignored
  | .qtointl _ _ => .ignored
  | .qfloor _ _ => .ignored
  | .qceil _ _ => .ignored
  | .qadd _ _ => .uqValue
  | .qsub _ _ => .uqValue
  | .qmul _ _ => .uqValue
  | .qdiv _ _ => .uqValue
  | .qpow _ _ => .plainInteger

/-- QMUL_RAW (R100): the exact product rescaled by 2^64, and whether it is above MAX_UQINT. -/
def mulRaw (a b : Nat) : Bool × Nat := (decide (maxUq < a * b / 2 ^ 64), a * b / 2 ^ 64)

end Sys2Proof.Machine
end

