-- ==== Sys2Proof/Machine/AddSub.lean ====
section
/-! DEFINITION. Addition and subtraction: QADD, QSUB (R90 to R93). Both are exact and never wrap (R15). -/

namespace Sys2Proof.Machine

/-- QADD_OP (R90). -/
def qaddOp (a b : Word) : Response :=
  if maxUq < a.toNat + b.toNat then raise .additionOverflow else succeed (a.toNat + b.toNat)

/-- QSUB_OP (R92). -/
def qsubOp (a b : Word) : Response :=
  if a.toNat < b.toNat then raise .subtractionUnderflow else succeed (a.toNat - b.toNat)

/-- QADD completes (R90). -/
def execQadd (a b : Word) (s : State) : Host.Outcome State Fault Refusal := .next (s.complete (qaddOp a b))

/-- QSUB completes (R92). -/
def execQsub (a b : Word) (s : State) : Host.Outcome State Fault Refusal := .next (s.complete (qsubOp a b))

end Sys2Proof.Machine
end

