-- ==== Sys2Proof/Machine/Conversion.lean ====
section
/-! DEFINITION. Conversion and rounding: INTTOQ, QTOINT, QTOINTL, QFLOOR, QCEIL (R70 to R79). -/

namespace Sys2Proof.Machine

/-- INTTOQ_OP (R70). -/
def inttoqOp (n : Word) : Response :=
  if maxConvertible < n.toNat then raise .conversionOverflow else succeed (n.toNat * 2 ^ 64)

/-- QTOINT_OP (R72). -/
def qtointOp (x : Word) : Response :=
  if fracPart x ≠ 0 then raise .truncatingDecimals else succeed (intPart x)

/-- QTOINTL_OP (R74). -/
def qtointlOp (x : Word) : Response := succeed (intPart x)

/-- QFLOOR_OP (R76). -/
def qfloorOp (x : Word) : Response := succeed (floorPart x)

/-- QCEIL_OP (R78). -/
def qceilOp (x : Word) : Response :=
  if fracPart x = 0 then succeed x.toNat
  else if maxUq < floorPart x + one then raise .ceilOverflow
  else succeed (floorPart x + one)

/-- INTTOQ completes (R70); B is ignored (R54). -/
def execInttoq (n _b : Word) (s : State) : Host.Outcome State Fault Refusal := .next (s.complete (inttoqOp n))

/-- QTOINT completes (R72); B is ignored (R54). -/
def execQtoint (x _b : Word) (s : State) : Host.Outcome State Fault Refusal := .next (s.complete (qtointOp x))

/-- QTOINTL completes (R74); B is ignored (R54). -/
def execQtointl (x _b : Word) (s : State) : Host.Outcome State Fault Refusal := .next (s.complete (qtointlOp x))

/-- QFLOOR completes (R76); B is ignored (R54). -/
def execQfloor (x _b : Word) (s : State) : Host.Outcome State Fault Refusal := .next (s.complete (qfloorOp x))

/-- QCEIL completes (R78); B is ignored (R54). -/
def execQceil (x _b : Word) (s : State) : Host.Outcome State Fault Refusal := .next (s.complete (qceilOp x))

end Sys2Proof.Machine
end

