-- ==== Sys2Proof/Machine/Div.lean ====
section
/-! DEFINITION. Division: QDIV (R111 to R115). -/

namespace Sys2Proof.Machine

/-- QDIV_OP (R111): DivisorZero is checked first (R147); the only overflow test is on the quotient (R113). -/
def qdivOp (a b : Word) : Response :=
  if b.toNat = 0 then raise .divisorZero
  else if maxUq < a.toNat * 2 ^ 64 / b.toNat then raise .divisionOverflow
  else succeed (a.toNat * 2 ^ 64 / b.toNat)

/-- QDIV completes (R111). -/
def execQdiv (a b : Word) (s : State) : Host.Outcome State Fault Refusal := .next (s.complete (qdivOp a b))

end Sys2Proof.Machine
end

