-- ==== Sys2Proof/Machine/Mul.lean ====
section
/-! DEFINITION. Multiplication: QMUL (R101 to R104). -/

namespace Sys2Proof.Machine

/-- QMUL_OP (R101): the overflow test is on the rescaled product. -/
def qmulOp (a b : Word) : Response :=
  if (mulRaw a.toNat b.toNat).1 then raise .multiplicationOverflow else succeed (mulRaw a.toNat b.toNat).2

/-- QMUL completes (R101). -/
def execQmul (a b : Word) (s : State) : Host.Outcome State Fault Refusal := .next (s.complete (qmulOp a b))

end Sys2Proof.Machine
end

