-- ==== Sys2Proof/Machine/Pow.lean ====
section
/-! DEFINITION. Integer exponentiation: QPOW (R120 to R126), right-to-left repeated squaring over QMUL_RAW. -/

namespace Sys2Proof.Machine

/-- The working registers of QPOW's loop (R121, R126), with the number of QMUL_RAW calls made so far (R123). They are
hidden inside one COMPLETE (R30) and so are no part of State. DESIGN CHOICE, safe (log 10). -/
structure PowWork where
  acc : Nat
  b : Nat
  k : Nat
  products : Nat
  squarings : Nat
  deriving DecidableEq, Repr

/-- The working registers before the first turn (R121). -/
def PowWork.start (base e : Nat) : PowWork := ⟨one, base, e, 0, 0⟩

/-- One accumulator product, `.error` when it overflows (R121). -/
def powProduct (w : PowWork) : Except PowWork PowWork :=
  if (mulRaw w.acc w.b).1 then .error { w with products := w.products + 1 }
  else .ok { w with acc := (mulRaw w.acc w.b).2, products := w.products + 1 }

/-- One squaring of the base, `.error` when it overflows (R121). -/
def powSquare (w : PowWork) : Except PowWork PowWork :=
  if (mulRaw w.b w.b).1 then .error { w with squarings := w.squarings + 1 }
  else .ok { w with b := (mulRaw w.b w.b).2, squarings := w.squarings + 1 }

/-- The first half of a turn: the product when the low exponent bit is 1, then `k <- k >> 1`. -/
def powBit (w : PowWork) : Except PowWork PowWork :=
  match (if w.k % 2 = 1 then powProduct w else .ok w) with
  | .ok w' => .ok { w' with k := w'.k / 2 }
  | .error w' => .error w'

/-- One turn of the loop: the second half squares the base if a higher bit remains or the build is RTL_UNGUARDED (R8). -/
def powTurn (v : PowVariant) (w : PowWork) : Except PowWork PowWork :=
  match powBit w with
  | .ok w' => if w'.k ≠ 0 ∨ v = .rtlUnguarded then powSquare w' else .ok w'
  | .error w' => .error w'

/-- `while k != 0`: at most as many turns as `fuel`. -/
def powLoop (v : PowVariant) : Nat → PowWork → Except PowWork PowWork
  | 0, w => .ok w
  | fuel + 1, w =>
    if w.k = 0 then .ok w
    else
      match powTurn v w with
      | .ok w' => powLoop v fuel w'
      | .error w' => .error w'

/-- The whole loop: 192 turns are enough, since e < 2^192 (R126). -/
def powRun (v : PowVariant) (base e : Word) : Except PowWork PowWork :=
  powLoop v 192 (PowWork.start base.toNat e.toNat)

/-- The QMUL_RAW calls of a run, (accumulator products, squarings), the overflowing one included (R123). -/
def powCalls (v : PowVariant) (base e : Word) : Nat × Nat :=
  match powRun v base e with
  | .ok w => (w.products, w.squarings)
  | .error w => (w.products, w.squarings)

/-- QPOW_OP (R121): any overflow is ExponentiationOverflow (R120). -/
def qpowOp (v : PowVariant) (base e : Word) : Response :=
  match powRun v base e with
  | .ok w => succeed w.acc
  | .error _ => raise .exponentiationOverflow

/-- QPOW completes (R121), by the schedule this core was built with (R164). -/
def execQpow (base e : Word) (s : State) : Host.Outcome State Fault Refusal :=
  .next (s.complete (qpowOp s.cfg.powVariant base e))

end Sys2Proof.Machine
end

