-- ==== Sys2Proof/Machine/Dispatch.lean ====
section
/-! DEFINITION. The meaning of each instruction, one arm per constructor: EXEC's case on the opcode, applied by COMPLETE
(R27, R56). -/

namespace Sys2Proof.Machine

def exec (i : Instr) (s : State) : Host.Outcome State Fault Refusal :=
  match i with
  | .inttoq n b => Sys2Proof.Machine.execInttoq n b s
  | .qtoint x b => Sys2Proof.Machine.execQtoint x b s
  | .qtointl x b => Sys2Proof.Machine.execQtointl x b s
  | .qfloor x b => Sys2Proof.Machine.execQfloor x b s
  | .qceil x b => Sys2Proof.Machine.execQceil x b s
  | .qadd a b => Sys2Proof.Machine.execQadd a b s
  | .qsub a b => Sys2Proof.Machine.execQsub a b s
  | .qmul a b => Sys2Proof.Machine.execQmul a b s
  | .qdiv a b => Sys2Proof.Machine.execQdiv a b s
  | .qpow base e => Sys2Proof.Machine.execQpow base e s

end Sys2Proof.Machine
end

