-- ==== Sys2Proof/Machine/Step.lean ====
section
/-! DEFINITION. One step: the event the state takes (R26, R27, R160), and time goes on. -/

namespace Sys2Proof.Machine

/-- One step. COMPLETE runs the instruction in flight; a reserved opcode completes with ILLEGAL_OPCODE (R146).
DESIGN CHOICE, unsafe (log 4): a state is what stands before its step's event, so in the state whose drive raises `rst` the
registers and outputs still hold their values from before, and RESET's zeros (R160) stand from the next state on. -/
def step (s : State) : Host.Outcome State Fault Refusal :=
  match s.event with
  | .reset => .next s.advance.resetRegisters
  | .brokenStatus => .fault .reservedStatus
  | .complete =>
    match s.inFlight with
    | .ok i => exec i s.advance
    | .error _ => .next s.advance.completeIllegal
  | .wait => .next s.advance
  | .accept => .next (s.advance.accept s.requested)
  | .idle => .next s.advance

/-- The state with the command of a table word in flight, so that the next step completes it. QCORE fetches nothing
(R21): the command stands in the latches, as its ACCEPT leaves it (R26). DESIGN CHOICE, safe (log 7). -/
def State.withFetchWord (s : State) (nbits w : Nat) : State :=
  s.load (Command.ofBits (tableBits nbits w))

end Sys2Proof.Machine
end

