-- ==== Sys2Proof/Machine/Assembler.lean ====
section
/-! DEFINITION. The assembler syntax of R59 and the host-script lines of R60, from text to lines. The host performs
these lines, not QCORE; no rule of the core reads anything here. DESIGN CHOICE, safe for the core: the text form's details
(log 12). -/

namespace Sys2Proof.Machine

/-- A name of a host variable or of a label. -/
abbrev Ident := List Char

/-- An operand of a command line (R59, R60). -/
inductive Operand where
  /-- A decimal or hexadecimal natural. -/
  | literal (n : Nat)
  /-- `q(r)` with r = digits / 10^scale. -/
  | fraction (digits scale : Nat)
  /-- `@RES`. -/
  | res
  /-- `$v`. -/
  | variable (name : Ident)
  deriving DecidableEq, Repr

/-- A line of a host script (R60). -/
inductive Line where
  /-- A command line, or `.cmd` with any opcode. -/
  | command (op : Opcode) (a b : Operand)
  /-- `MOV $v, RES`. -/
  | movRes (name : Ident)
  /-- `MOV $v, <literal>`. -/
  | movLiteral (name : Ident) (n : Nat)
  /-- `INC $v`. -/
  | inc (name : Ident)
  /-- `BEQ STS, k, L`. -/
  | beq (k : Nat) (label : Ident)
  /-- `BNE STS, k, L`. -/
  | bne (k : Nat) (label : Ident)
  /-- `JMP L`. -/
  | jmp (label : Ident)
  /-- `HALT`. -/
  | halt
  deriving DecidableEq, Repr

/-- A line with the label it may carry. -/
structure Statement where
  label : Option Ident
  line : Line
  deriving DecidableEq, Repr

/-- encode(r) = floor(r * 2^64) for r = digits / 10^scale (R59, D20). -/
def encodeFraction (digits scale : Nat) : Nat := digits * 2 ^ 64 / 10 ^ scale

/-- Whether an opcode takes one operand in the syntax, which are those that ignore B (R53, R59). -/
def isUnary (op : Opcode) : Bool :=
  match decode ⟨op, 0, 0⟩ with
  | .ok i => decide (roleB i = .ignored)
  | .error _ => false

/-- A word for the port, or the assembler's rejection: "Every operand must be at most 2^192 - 1" (R59). -/
def portWord (n : Nat) : Except Refusal Word :=
  if maxUq < n then .error .operandTooWide else .ok (BitVec.ofNat 192 n)

def isBlank (c : Char) : Bool := c == ' ' || c == '\t'

def trim (cs : List Char) : List Char := ((cs.dropWhile isBlank).reverse.dropWhile isBlank).reverse

/-- The value of a digit, hexadecimal digits in either case. -/
def digitValue (c : Char) : Option Nat :=
  if 48 ≤ c.toNat ∧ c.toNat ≤ 57 then some (c.toNat - 48)
  else if 97 ≤ c.toNat ∧ c.toNat ≤ 102 then some (c.toNat - 87)
  else if 65 ≤ c.toNat ∧ c.toNat ≤ 70 then some (c.toNat - 55)
  else none

/-- The digits of a natural in a base, most significant first, after the value read so far. -/
def readDigits (base : Nat) : Nat → List Char → Option Nat
  | acc, [] => some acc
  | acc, c :: cs =>
    match digitValue c with
    | some d => if d < base then readDigits base (acc * base + d) cs else none
    | none => none

def readNatural (base : Nat) (cs : List Char) : Option Nat :=
  if cs.isEmpty then none else readDigits base 0 cs

/-- A decimal natural like `123` or a hexadecimal natural like `0x7B` (R59). -/
def readLiteral : List Char → Option Nat
  | '0' :: 'x' :: ds => readNatural 16 ds
  | ds => readNatural 10 ds

/-- A non-negative decimal fraction like `2.25`, as its digits and how many follow the point (R59). DESIGN CHOICE, safe for
the core (log 12): the point is optional, and a point needs a digit on each side, so `.5` and `5.` are no fractions. -/
def readDecimal (cs : List Char) : Option (Nat × Nat) :=
  let whole := cs.takeWhile (· != '.')
  match cs.dropWhile (· != '.') with
  | [] => (readNatural 10 whole).map fun n => (n, 0)
  | _ :: frac =>
    if whole.isEmpty || frac.isEmpty then none
    else (readNatural 10 (whole ++ frac)).map fun n => (n, frac.length)

def readVariable : List Char → Except Refusal Ident
  | '$' :: c :: cs => .ok (c :: cs)
  | _ => .error .badSyntax

/-- An operand (R59). A literal or `q(r)` above 2^192 - 1 is rejected here, a host value when the line is issued. DESIGN
CHOICE, safe for the core (log 12): blanks may stand inside the parentheses of `q(r)`, none between `q` and `(`. -/
def readOperand (cs : List Char) : Except Refusal Operand :=
  match cs with
  | ['@', 'R', 'E', 'S'] => .ok .res
  | '$' :: c :: rest => .ok (.variable (c :: rest))
  | 'q' :: '(' :: rest =>
    match rest.reverse with
    | ')' :: body =>
      match readDecimal (trim body.reverse) with
      | some (n, k) => if maxUq < encodeFraction n k then .error .operandTooWide else .ok (.fraction n k)
      | none => .error .badSyntax
    | _ => .error .badSyntax
  | _ =>
    match readLiteral cs with
    | some n => if maxUq < n then .error .operandTooWide else .ok (.literal n)
    | none => .error .badSyntax

def splitCommas : List Char → List (List Char)
  | [] => [[]]
  | c :: cs =>
    if c = ',' then [] :: splitCommas cs
    else
      match splitCommas cs with
      | [] => [[c]]
      | w :: ws => (c :: w) :: ws

/-- The opcode a mnemonic stands for (R55, R59), the mnemonic in upper case. -/
def mnemonicOpcode (m : List Char) : Option Opcode :=
  (opcodeTable.find? fun r => r.mnemonic.toList == m).map (·.value)

/-- A command line with its operands: two for a two-operand opcode, one for a unary opcode, for which B = 0 is written
(R59). -/
def readCommand (op : Opcode) : List (List Char) → Except Refusal Line
  | [a] =>
    if isUnary op then
      match readOperand a with
      | .ok x => .ok (.command op x (.literal 0))
      | .error e => .error e
    else .error .badSyntax
  | [a, b] =>
    if isUnary op then .error .badSyntax
    else
      match readOperand a, readOperand b with
      | .ok x, .ok y => .ok (.command op x y)
      | .error e, _ => .error e
      | _, .error e => .error e
  | _ => .error .badSyntax

/-- `.cmd OP, A, B`: a raw command with any 8-bit OP (R59). -/
def readRaw : List (List Char) → Except Refusal Line
  | [o, a, b] =>
    match readLiteral o, readOperand a, readOperand b with
    | some n, .ok x, .ok y =>
      if n < 2 ^ 8 then .ok (.command (BitVec.ofNat 8 n) x y) else .error .opcodeTooWide
    | none, _, _ => .error .badSyntax
    | _, .error e, _ => .error e
    | _, _, .error e => .error e
  | _ => .error .badSyntax

/-- `MOV $v, RES` or `MOV $v, <literal>` (R60). -/
def readMov : List (List Char) → Except Refusal Line
  | [v, src] =>
    match readVariable v with
    | .error e => .error e
    | .ok name =>
      if src = ['R', 'E', 'S'] then .ok (.movRes name)
      else
        match readLiteral src with
        | some n => .ok (.movLiteral name n)
        | none => .error .badSyntax
  | _ => .error .badSyntax

/-- The operands of a branch on STS: the code compared and the label (R60). -/
def readBranch : List (List Char) → Except Refusal (Nat × Ident)
  | [['S', 'T', 'S'], k, l] =>
    match readLiteral k with
    | some n => if l.isEmpty then .error .badSyntax else .ok (n, l)
    | none => .error .badSyntax
  | _ => .error .badSyntax

/-- A line from its first word, in upper case, and its comma-separated operands (R59, R60). -/
def readLine (word : List Char) (args : List (List Char)) : Except Refusal Line :=
  match mnemonicOpcode word with
  | some op => readCommand op args
  | none =>
    if word = ['.', 'C', 'M', 'D'] then readRaw args
    else if word = ['M', 'O', 'V'] then readMov args
    else if word = ['I', 'N', 'C'] then
      match args with
      | [v] => (readVariable v).map Line.inc
      | _ => .error .badSyntax
    else if word = ['B', 'E', 'Q'] then (readBranch args).map fun p => Line.beq p.1 p.2
    else if word = ['B', 'N', 'E'] then (readBranch args).map fun p => Line.bne p.1 p.2
    else if word = ['J', 'M', 'P'] then
      match args with
      | [l] => if l.isEmpty then .error .badSyntax else .ok (.jmp l)
      | _ => .error .badSyntax
    else if word = ['H', 'A', 'L', 'T'] then (if args.isEmpty then .ok .halt else .error .badSyntax)
    else .error .badSyntax

/-- One line of text: an optional `label:`, a first word read case-insensitively (R59), operands, and a `;` comment. -/
def assemble (text : List Char) : Except Refusal Statement :=
  let code := trim (text.takeWhile (· != ';'))
  let label := if code.elem ':' then some (trim (code.takeWhile (· != ':'))) else none
  let body := if code.elem ':' then trim ((code.dropWhile (· != ':')).drop 1) else code
  let word := (body.takeWhile fun c => !isBlank c).map Char.toUpper
  let rest := trim (body.dropWhile fun c => !isBlank c)
  let args := if rest.isEmpty then [] else (splitCommas rest).map trim
  (readLine word args).map fun l => ⟨label, l⟩

end Sys2Proof.Machine
end

