-- ==== Sys2Proof/Machine/HostScript.lean ====
section
/-! DEFINITION. The host running a script (R60): the host's own state beside the core's, and one host step. It acts on
the core only through the request port and `step`, and reads it only through its outputs. DESIGN CHOICE, safe for the core:
how the host takes its steps (log 13). -/

namespace Sys2Proof.Machine

/-- Where the host stands in the expansion of a command line (R60). -/
inductive Phase where
  /-- Between lines. -/
  | ready
  /-- Driving the command with `req_valid` = 1, until ACCEPT (actions 1 and 2). -/
  | presenting (c : Command)
  /-- `req_valid` = 0, until `rsp_done` = 1 (actions 3 and 4). -/
  | awaiting
  /-- The host has stopped issuing (`HALT`). -/
  | halted
  deriving DecidableEq, Repr

/-- A host that runs a script against one core. -/
structure ScriptHost where
  script : List Statement
  /-- The line the host is at. -/
  line : Nat
  /-- The host variables, the latest value of a name first. -/
  vars : List (Ident × Nat)
  phase : Phase
  core : State
  deriving DecidableEq, Repr

/-- The host at the first line of a script, with the core after reset (95 section 4). -/
def ScriptHost.start (script : List Statement) : ScriptHost := ⟨script, 0, [], .ready, State.reset⟩

/-- The value of a host variable. -/
def ScriptHost.lookup (h : ScriptHost) (name : Ident) : Except Refusal Nat :=
  match h.vars.find? fun p => p.1 == name with
  | some p => .ok p.2
  | none => .error .unboundVariable

/-- The line that carries a label. -/
def ScriptHost.target (h : ScriptHost) (label : Ident) : Except Refusal Nat :=
  match h.script.findIdx? fun st => st.label == some label with
  | some n => .ok n
  | none => .error .unknownLabel

/-- The value of an operand just before its line is issued (R60). -/
def ScriptHost.operandValue (h : ScriptHost) : Operand → Except Refusal Nat
  | .literal n => .ok n
  | .fraction n k => .ok (encodeFraction n k)
  | .res => h.core.readResponse.map fun p => p.2.toNat
  | .variable name => h.lookup name

/-- The word an operand puts on the port, refused when it does not fit (R59). -/
def ScriptHost.operandWord (h : ScriptHost) (o : Operand) : Except Refusal Word :=
  match h.operandValue o with
  | .ok n => portWord n
  | .error e => .error e

def ScriptHost.nextLine (h : ScriptHost) : ScriptHost := { h with line := h.line + 1 }

def ScriptHost.assign (h : ScriptHost) (name : Ident) (n : Nat) : ScriptHost :=
  { h with vars := (name, n) :: h.vars }

/-- Continue at a label if the condition on `rsp_sts` holds (R60). -/
def ScriptHost.branch (h : ScriptHost) (taken : Bool) (label : Ident) : Except Refusal ScriptHost :=
  if taken then (h.target label).map fun n => { h with line := n } else .ok h.nextLine

/-- The host acts on one line. A command line only begins here: its command is put on the port by the steps that
follow. -/
def ScriptHost.act (h : ScriptHost) : Line → Except Refusal ScriptHost
  | .command op a b =>
    match h.operandWord a, h.operandWord b with
    | .ok x, .ok y => .ok { h with phase := .presenting ⟨op, x, y⟩ }
    | .error e, _ => .error e
    | _, .error e => .error e
  | .movRes name => h.core.readResponse.map fun p => (h.assign name p.2.toNat).nextLine
  | .movLiteral name n => .ok (h.assign name n).nextLine
  | .inc name => (h.lookup name).map fun n => (h.assign name (n + 1)).nextLine
  | .beq k label =>
    match h.core.readResponse with
    | .ok p => h.branch (p.1.toNat == k) label
    | .error e => .error e
  | .bne k label =>
    match h.core.readResponse with
    | .ok p => h.branch (p.1.toNat != k) label
    | .error e => .error e
  | .jmp label => h.branch true label
  | .halt => .ok { h with phase := .halted }

/-- The core takes one step under what the host drives. -/
def ScriptHost.stepCore (h : ScriptHost) (driven : State) (phase : Phase) : Host.Outcome ScriptHost Fault Refusal :=
  match step driven with
  | .next c => .next { h with core := c, phase := phase }
  | .fault r => .fault r
  | .refused r => .refused r

/-- One step of the host (R60). Between lines it acts at once; while a command is presented or awaited the core steps.
`rst` and the scheduler's choices still come from the core's own drives. -/
def ScriptHost.step (h : ScriptHost) : Host.Outcome ScriptHost Fault Refusal :=
  match h.phase with
  | .ready =>
    match h.script[h.line]? with
    | none => .refused .endOfScript
    | some st =>
      match h.act st.line with
      | .ok h' => .next h'
      | .error e => .refused e
  | .presenting c =>
    h.stepCore (h.core.present c) (if (h.core.present c).acceptEnabled then .awaiting else .presenting c)
  | .awaiting =>
    if h.core.rspDone then .next { h.nextLine with phase := .ready }
    else h.stepCore h.core.withdraw .awaiting
  | .halted => .next h

/-- The host with its core, as one machine that starts at the first line of a script. -/
def scriptMachine (script : List Statement) : Host.Core :=
  { State := ScriptHost, Fault := Fault, Refusal := Refusal, step := ScriptHost.step, reset := ScriptHost.start script }

end Sys2Proof.Machine
end

