-- ==== Sys2Proof/Safety.lean ====
section
/-! DEFINITION. The terms claims are made in: EXEC as the spec writes it (R56), the invariants (R32, R162), a safe step,
the closed description of QPOW (R121, R123) and the test oracle's tolerance (R10). -/

namespace Sys2Proof.Safety

open Sys2Proof.Machine

/-- EXEC(op, a, b) of R56, written from its pseudocode on the opcode itself and not through the decoder. -/
def specExec (v : PowVariant) (op : Opcode) (a b : Word) : Response :=
  if op = 0x01 then inttoqOp a
  else if op = 0x02 then qtointOp a
  else if op = 0x03 then qtointlOp a
  else if op = 0x04 then qfloorOp a
  else if op = 0x05 then qceilOp a
  else if op = 0x06 then qaddOp a b
  else if op = 0x07 then qsubOp a b
  else if op = 0x08 then qmulOp a b
  else if op = 0x09 then qdivOp a b
  else if op = 0x0A then qpowOp v a b
  else raise .illegalOpcode

/-- OP is reserved (R57). -/
def reservedOpcode (op : Opcode) : Prop := op = 0x00 ∨ 0x0B ≤ op.toNat

/-- The invariants of R32, clause by clause; clause 2, RES <= MAX_UQINT, is the width of RES. -/
structure Inv (s : State) : Prop where
  /-- BUSY and DONE never hold together. -/
  exclusive : ¬(s.busy = true ∧ s.done = true)
  /-- RES <= MAX_UQINT. -/
  bounded : s.res.toNat ≤ maxUq
  /-- STS is in {0, ..., 9, 15}. -/
  legal : s.sts.toNat ≤ 9 ∨ s.sts.toNat = 15
  /-- If STS != 0 then RES = 0. -/
  failed : s.sts ≠ 0 → s.res = 0
  /-- If DONE = 1, the response is EXEC of the latched command. -/
  response : s.done = true →
    s.sts = (specExec s.cfg.powVariant s.opl s.al s.bl).status.code ∧
    s.res = (specExec s.cfg.powVariant s.opl s.al s.bl).result

/-- With neither a command in flight nor a response present, the registers are as reset left them (R162). -/
def Untouched (s : State) : Prop :=
  s.busy = false ∧ s.done = false → s.sts = 0 ∧ s.res = 0 ∧ s.opl = 0 ∧ s.al = 0 ∧ s.bl = 0

/-- The seven registers of R23, as one value. -/
def registers (s : State) : Word × StatusWord × Bool × Bool × Opcode × Word × Word :=
  (s.res, s.sts, s.busy, s.done, s.opl, s.al, s.bl)

/-- The step goes on. -/
def StepGoesOn (s : State) : Prop := ∃ t, step s = .next t

/-- `rst` is 0 now and at every step the schedule names. -/
def NoReset (s : State) : Prop := s.now.rst = false ∧ ∀ d ∈ s.later, d.rst = false

/-- base^(2^i) as QPOW's squarings give it, each one truncated (R100, R121), on unbounded naturals. -/
def squareAt (base : Nat) : Nat → Nat
  | 0 => base
  | i + 1 => squareAt base i * squareAt base i / 2 ^ 64

/-- The accumulator before bit i of the exponent is taken, on unbounded naturals (R121). -/
def accAt (base e : Nat) : Nat → Nat
  | 0 => 2 ^ 64
  | i + 1 => if e.testBit i then accAt base e i * squareAt base i / 2 ^ 64 else accAt base e i

/-- No product that the schedule forms reaches 2^256 (R100, R123): the accumulator product of each set bit, and the
square after each bit that has a higher one (after every bit under RTL_UNGUARDED). -/
def PowFits (v : PowVariant) (base e : Nat) : Prop :=
  ∀ i < e.size,
    (e.testBit i = true → accAt base e i * squareAt base i < 2 ^ 256) ∧
    (i + 1 < e.size ∨ v = .rtlUnguarded → squareAt base i * squareAt base i < 2 ^ 256)

/-- The number of set bits of e, P in R123. -/
def setBits (e : Nat) : Nat := (List.range e.size).countP fun i => e.testBit i

/-- A test oracle's comparison (R10): the result r is within `tolerance` units of 2^-64 of the exact power
base^e / 2^(64(e-1)). POW_TOLERANCE is its argument; the core never reads it. DESIGN CHOICE, safe: its unit (log 14). -/
def powWithin (tolerance base e r : Nat) : Prop :=
  r * 2 ^ (64 * e) ≤ base ^ e * 2 ^ 64 + tolerance * 2 ^ (64 * e) ∧
  base ^ e * 2 ^ 64 ≤ r * 2 ^ (64 * e) + tolerance * 2 ^ (64 * e)

end Sys2Proof.Safety
end

