-- ==== Sys2Proof/Certificates/Slice0/Obligations.lean ====
section
/-! DEFINITION. The statements for the provers, each from a numbered rule of the spec. A result is always given as the
whole next state: every field that is not named is unchanged, which is the instruction's frame. -/

open Sys2Proof Sys2Proof.Machine Sys2Proof.Safety

/-! ## Encoding -/

/-- Decoding the packed word of any instruction gives it back, both operands at every value (R51, R55, R61). -/
def Obligations.DecodeInvertsEncode : Prop :=
  ∀ i : Instr, decodeWord (encode i) = .ok i

/-- Encoding what the decoder reads from any of the 2^392 words gives the word back: no bit is dropped (R51, R58). -/
def Obligations.EncodeInvertsDecode : Prop :=
  ∀ (w : CommandWord) (i : Instr), decodeWord w = .ok i → encode i = w

/-- R51: the value of CMD, the place of each field, and that the fields are those of the request port. -/
def Obligations.CommandWordLayout : Prop :=
  (∀ c : Command,
    c.pack.toNat = c.b.toNat * 2 ^ 200 + c.a.toNat * 2 ^ 8 + c.op.toNat ∧
    c.pack.extractLsb' 0 8 = c.op ∧ c.pack.extractLsb' 8 192 = c.a ∧ c.pack.extractLsb' 200 192 = c.b ∧
    Command.unpack c.pack = c) ∧
  ∀ s : State, s.requested = ⟨s.now.reqOp, s.now.reqA, s.now.reqB⟩

/-- R52: the value of RSP and the place of each field. -/
def Obligations.ResponseWordLayout : Prop :=
  ∀ s : State,
    s.rsp.toNat = s.res.toNat * 2 ^ 4 + s.sts.toNat ∧
    s.rsp.extractLsb' 0 4 = s.sts ∧ s.rsp.extractLsb' 4 192 = s.res ∧
    responseStatus s.rsp = s.sts ∧ responseResult s.rsp = s.res

/-- R61 on the ten assigned rows of R55: exactly one row of the opcode table matches the OP, every A and B decode as they
stand, and no operand value is an illegal encoding. For a reserved OP the two clauses are the model's form, not R61's words
(log 6, DEDUCED): the table has no row for it and the decoder refuses it by name, while R55's map lists it as reserved. -/
def Obligations.EveryOpcodeSelectsOneRow : Prop :=
  ∀ op : Opcode,
    (reservedOpcode op ∧ (opcodeTable.filter fun r => r.matches op) = [] ∧
      ∀ a b : Word, decode ⟨op, a, b⟩ = .error (.reservedOpcode op)) ∨
    (¬ reservedOpcode op ∧
      (∃ r : OpcodeRow, (opcodeTable.filter fun r => r.matches op) = [r] ∧ r.value = op) ∧
      ∀ a b : Word,
        (∃ i : Instr, decode ⟨op, a, b⟩ = .ok i ∧ i.opcode = op ∧ i.operandA = a ∧ i.operandB = b) ∧
        ∀ v : PowVariant, (specExec v op a b).status ≠ .illegalOpcode)

/-- R63: the packed word of `QADD q(1.5), q(2.25)`, what it decodes to, and its response. -/
def Obligations.ExampleWordDecodesAndCompletes : Prop :=
  decodeWord 0x2400000000000000000000000000000000000000000000001800000000000000006#392 =
    .ok (.qadd 0x18000000000000000#192 0x24000000000000000#192) ∧
  encode (.qadd 0x18000000000000000#192 0x24000000000000000#192) =
    0x2400000000000000000000000000000000000000000000001800000000000000006#392 ∧
  ∀ s : State, exec (.qadd 0x18000000000000000#192 0x24000000000000000#192) s =
    .next { s with sts := 0, res := 0x3C000000000000000#192, busy := false, done := true }

/-- Words of the program listings of `95_test_vectors.md` section 4, at least one for each family of the opcode table, decode
to the commands printed beside them. The last clause is on the listed word with the reserved OP 0x0B: that the decoder
refuses it by name is the model's form (log 6, DEDUCED); the step completes it with ILLEGAL_OPCODE. -/
def Obligations.ListedWordsDecode : Prop :=
  decodeWord 0x3E801#392 = .ok (.inttoq 1000 0) ∧
  decodeWord 0x4000000000000000002#392 = .ok (.qtoint 0x40000000000000000#192 0) ∧
  decodeWord 0x65CE50642AF3C98BD2803#392 = .ok (.qtointl 0x65CE50642AF3C98BD28#192 0) ∧
  decodeWord 0x3C00000000000000005#392 = .ok (.qceil 0x3C000000000000000#192 0) ∧
  decodeWord 0x1000000000000000000000000000000000000000000000001000000000000000006#392 =
    .ok (.qadd 0x10000000000000000#192 0x10000000000000000#192) ∧
  decodeWord 0x3E8000000000000000000000000000000000000000000000001A0FF3CFEA3A5044908#392 =
    .ok (.qmul 0x1A0FF3CFEA3A50449#192 0x3E80000000000000000#192) ∧
  decodeWord 0x5000000000000000009#392 = .ok (.qdiv 0x50000000000000000#192 0) ∧
  decodeWord 0xA000000000000000000000000000000010CCCCCCCCCCCCCCC0A#392 = .ok (.qpow 0x10CCCCCCCCCCCCCCC#192 10) ∧
  decodeWord 0x500000000000000000B#392 = .error (.reservedOpcode 0x0B)

/-! ## Conversion and rounding -/

/-- R70. The corner cases and the example of the rule are instances. -/
def Obligations.InttoqScalesOrOverflows : Prop :=
  ∀ (n b : Word) (s : State),
    decode ⟨0x01, n, b⟩ = .ok (.inttoq n b) ∧
    (2 ^ 128 - 1 < n.toNat ↔ n.toNat / 2 ^ 128 ≠ 0) ∧
    (n.toNat ≤ 2 ^ 128 - 1 →
      n.toNat * 2 ^ 64 ≤ 2 ^ 192 - 2 ^ 64 ∧
      exec (.inttoq n b) s =
        .next { s with sts := 0, res := BitVec.ofNat 192 (n.toNat * 2 ^ 64), busy := false, done := true }) ∧
    (2 ^ 128 - 1 < n.toNat →
      exec (.inttoq n b) s = .next { s with sts := 1, res := 0, busy := false, done := true })

/-- R71: for n <= MAXC, QTOINT of INTTOQ's result gives n; for every other n the port can carry, INTTOQ fails. -/
def Obligations.InttoqThenQtointGivesBack : Prop :=
  ∀ (n b b' : Word) (s : State),
    (n.toNat ≤ 2 ^ 128 - 1 →
      ∃ t u : State, exec (.inttoq n b) s = .next t ∧ exec (.qtoint t.res b') t = .next u ∧ u.sts = 0 ∧ u.res = n) ∧
    (2 ^ 128 - 1 < n.toNat → ∃ t : State, exec (.inttoq n b) s = .next t ∧ t.sts = 1)

/-- R72. The result is the integer part, not scaled. -/
def Obligations.QtointConvertsIntegralOnly : Prop :=
  ∀ (x b : Word) (s : State),
    decode ⟨0x02, x, b⟩ = .ok (.qtoint x b) ∧
    (x.toNat % 2 ^ 64 = 0 →
      x.toNat / 2 ^ 64 < 2 ^ 128 ∧
      exec (.qtoint x b) s =
        .next { s with sts := 0, res := BitVec.ofNat 192 (x.toNat / 2 ^ 64), busy := false, done := true }) ∧
    (x.toNat % 2 ^ 64 ≠ 0 →
      exec (.qtoint x b) s = .next { s with sts := 2, res := 0, busy := false, done := true })

/-- R73: on a value with fraction bits QTOINT fails and QTOINTL gives the integer part. -/
def Obligations.FractionFailsQtointNotQtointl : Prop :=
  ∀ (x b : Word) (s : State), x.toNat % 2 ^ 64 ≠ 0 →
    (∃ t : State, exec (.qtoint x b) s = .next t ∧ t.sts = 2) ∧
    ∃ u : State, exec (.qtointl x b) s = .next u ∧ u.sts = 0 ∧ u.res.toNat = x.toNat / 2 ^ 64

/-- R74: QTOINTL always succeeds. -/
def Obligations.QtointlDiscardsFraction : Prop :=
  ∀ (x b : Word) (s : State),
    decode ⟨0x03, x, b⟩ = .ok (.qtointl x b) ∧
    x.toNat / 2 ^ 64 < 2 ^ 128 ∧
    exec (.qtointl x b) s =
      .next { s with sts := 0, res := BitVec.ofNat 192 (x.toNat / 2 ^ 64), busy := false, done := true }

/-- R75: QTOINTL x is QTOINT of QFLOOR x, which does not fail. -/
def Obligations.QtointlIsQtointOfQfloor : Prop :=
  ∀ (x b : Word) (s : State), ∃ t f u : State,
    exec (.qtointl x b) s = .next t ∧ exec (.qfloor x b) s = .next f ∧ exec (.qtoint f.res b) f = .next u ∧
    u.sts = 0 ∧ u.res = t.res

/-- R76: QFLOOR always succeeds; its result is scaled. -/
def Obligations.QfloorClearsFraction : Prop :=
  ∀ (x b : Word) (s : State),
    decode ⟨0x04, x, b⟩ = .ok (.qfloor x b) ∧
    x.toNat / 2 ^ 64 * 2 ^ 64 ≤ 2 ^ 192 - 2 ^ 64 ∧
    exec (.qfloor x b) s =
      .next { s with sts := 0, res := BitVec.ofNat 192 (x.toNat / 2 ^ 64 * 2 ^ 64), busy := false, done := true }

/-- R77: QFLOOR is idempotent, and its result is at most x, with equality exactly when x is integral. -/
def Obligations.QfloorIdempotentAndBelow : Prop :=
  ∀ (x b : Word) (s : State), ∃ t u : State,
    exec (.qfloor x b) s = .next t ∧ exec (.qfloor t.res b) t = .next u ∧ u.sts = t.sts ∧ u.res = t.res ∧
    t.res.toNat ≤ x.toNat ∧ (t.res = x ↔ x.toNat % 2 ^ 64 = 0)

/-- R78: an integral x is unchanged, otherwise the next integral value, and CeilOverflow exactly when there is none. -/
def Obligations.QceilRoundsUpOrOverflows : Prop :=
  ∀ (x b : Word) (s : State),
    decode ⟨0x05, x, b⟩ = .ok (.qceil x b) ∧
    (x.toNat % 2 ^ 64 ≠ 0 ∧ x.toNat / 2 ^ 64 = 2 ^ 128 - 1 ↔ 2 ^ 192 - 2 ^ 64 + 1 ≤ x.toNat) ∧
    (x.toNat % 2 ^ 64 = 0 →
      exec (.qceil x b) s = .next { s with sts := 0, res := x, busy := false, done := true }) ∧
    (x.toNat % 2 ^ 64 ≠ 0 → x.toNat / 2 ^ 64 < 2 ^ 128 - 1 →
      x.toNat / 2 ^ 64 * 2 ^ 64 + 2 ^ 64 ≤ 2 ^ 192 - 1 ∧
      exec (.qceil x b) s = .next { s with
        sts := 0, res := BitVec.ofNat 192 (x.toNat / 2 ^ 64 * 2 ^ 64 + 2 ^ 64), busy := false, done := true }) ∧
    (x.toNat % 2 ^ 64 ≠ 0 → x.toNat / 2 ^ 64 = 2 ^ 128 - 1 →
      exec (.qceil x b) s = .next { s with sts := 8, res := 0, busy := false, done := true })

/-- R79: where QCEIL succeeds, floor <= x <= ceiling, both strict unless x is integral, and QCEIL returns its own results
unchanged. -/
def Obligations.FloorAndCeilingEncloseValue : Prop :=
  ∀ (x b : Word) (s c : State), exec (.qceil x b) s = .next c → c.sts = 0 →
    ∃ f d : State,
      exec (.qfloor x b) s = .next f ∧ exec (.qceil c.res b) c = .next d ∧
      f.res.toNat ≤ x.toNat ∧ x.toNat ≤ c.res.toNat ∧
      (f.res = x ↔ x.toNat % 2 ^ 64 = 0) ∧ (x = c.res ↔ x.toNat % 2 ^ 64 = 0) ∧
      d.sts = 0 ∧ d.res = c.res

/-! ## Addition, subtraction, multiplication, division -/

/-- R90. -/
def Obligations.QaddSumsOrOverflows : Prop :=
  ∀ (a b : Word) (s : State),
    decode ⟨0x06, a, b⟩ = .ok (.qadd a b) ∧
    (a.toNat + b.toNat ≤ 2 ^ 192 - 1 →
      exec (.qadd a b) s =
        .next { s with sts := 0, res := BitVec.ofNat 192 (a.toNat + b.toNat), busy := false, done := true }) ∧
    (2 ^ 192 ≤ a.toNat + b.toNat →
      exec (.qadd a b) s = .next { s with sts := 3, res := 0, busy := false, done := true })

/-- R91: QADD commutes, failures included. -/
def Obligations.QaddCommutes : Prop :=
  ∀ (v : PowVariant) (a b : Word) (s : State),
    specExec v 0x06 a b = specExec v 0x06 b a ∧ exec (.qadd a b) s = exec (.qadd b a) s

/-- R92. -/
def Obligations.QsubSubtractsOrUnderflows : Prop :=
  ∀ (a b : Word) (s : State),
    decode ⟨0x07, a, b⟩ = .ok (.qsub a b) ∧
    (b.toNat ≤ a.toNat →
      exec (.qsub a b) s =
        .next { s with sts := 0, res := BitVec.ofNat 192 (a.toNat - b.toNat), busy := false, done := true }) ∧
    (a.toNat < b.toNat →
      exec (.qsub a b) s = .next { s with sts := 4, res := 0, busy := false, done := true })

/-- R93: QSUB fails exactly when b > a, and QADD undoes a QSUB that succeeds. -/
def Obligations.QaddUndoesQsub : Prop :=
  ∀ (a b : Word) (s : State), ∃ t : State, exec (.qsub a b) s = .next t ∧
    (t.sts = 4 ↔ a.toNat < b.toNat) ∧
    (t.sts = 0 → ∃ u : State, exec (.qadd t.res b) t = .next u ∧ u.sts = 0 ∧ u.res = a)

/-- R101: the test is on the rescaled product, and is the same as a * b >= 2^256. -/
def Obligations.QmulRescalesOrOverflows : Prop :=
  ∀ (a b : Word) (s : State),
    decode ⟨0x08, a, b⟩ = .ok (.qmul a b) ∧
    (2 ^ 192 - 1 < a.toNat * b.toNat / 2 ^ 64 ↔ 2 ^ 256 ≤ a.toNat * b.toNat) ∧
    (a.toNat * b.toNat < 2 ^ 256 →
      exec (.qmul a b) s =
        .next { s with sts := 0, res := BitVec.ofNat 192 (a.toNat * b.toNat / 2 ^ 64), busy := false, done := true }) ∧
    (2 ^ 256 ≤ a.toNat * b.toNat →
      exec (.qmul a b) s = .next { s with sts := 5, res := 0, busy := false, done := true })

/-- R102: QMUL commutes, failures included. -/
def Obligations.QmulCommutes : Prop :=
  ∀ (v : PowVariant) (a b : Word) (s : State),
    specExec v 0x08 a b = specExec v 0x08 b a ∧ exec (.qmul a b) s = exec (.qmul b a) s

/-- R103: ONE is the identity of QMUL. -/
def Obligations.QmulByOneIsIdentity : Prop :=
  ∀ (x : Word) (s : State),
    exec (.qmul x (BitVec.ofNat 192 (2 ^ 64))) s = .next { s with sts := 0, res := x, busy := false, done := true }

/-- R104: the truncation of a product is below one unit and toward zero; it is unreported, since a product that fits and
loses bits completes with STS = 0 like any other; and QMUL is not associative. -/
def Obligations.QmulTruncatesTowardZero : Prop :=
  (∀ (a b : Word) (s t : State), exec (.qmul a b) s = .next t → t.sts = 0 →
    t.res.toNat * 2 ^ 64 ≤ a.toNat * b.toNat ∧ a.toNat * b.toNat < (t.res.toNat + 1) * 2 ^ 64) ∧
  (∀ (a b : Word) (s : State), a.toNat * b.toNat < 2 ^ 256 → a.toNat * b.toNat % 2 ^ 64 ≠ 0 →
    ∃ t : State, exec (.qmul a b) s = .next t ∧ t.sts = 0 ∧ t.res.toNat * 2 ^ 64 < a.toNat * b.toNat) ∧
  ∀ s : State, ∃ t u v w : State,
    exec (.qmul 3 (BitVec.ofNat 192 (2 ^ 63))) s = .next t ∧ t.sts = 0 ∧
    exec (.qmul t.res (BitVec.ofNat 192 (2 ^ 65))) t = .next u ∧ u.sts = 0 ∧ u.res = 2 ∧
    exec (.qmul (BitVec.ofNat 192 (2 ^ 63)) (BitVec.ofNat 192 (2 ^ 65))) s = .next v ∧ v.sts = 0 ∧
    exec (.qmul 3 v.res) v = .next w ∧ w.sts = 0 ∧ w.res = 3

/-- R111: DivisorZero first, then the quotient test, then the truncated quotient. -/
def Obligations.QdivDividesOrFails : Prop :=
  ∀ (a b : Word) (s : State),
    decode ⟨0x09, a, b⟩ = .ok (.qdiv a b) ∧
    (b.toNat ≠ 0 → (2 ^ 192 - 1 < a.toNat * 2 ^ 64 / b.toNat ↔ b.toNat * 2 ^ 128 ≤ a.toNat)) ∧
    (b.toNat = 0 → exec (.qdiv a b) s = .next { s with sts := 6, res := 0, busy := false, done := true }) ∧
    (b.toNat ≠ 0 → 2 ^ 192 - 1 < a.toNat * 2 ^ 64 / b.toNat →
      exec (.qdiv a b) s = .next { s with sts := 7, res := 0, busy := false, done := true }) ∧
    (b.toNat ≠ 0 → a.toNat * 2 ^ 64 / b.toNat ≤ 2 ^ 192 - 1 →
      exec (.qdiv a b) s =
        .next { s with sts := 0, res := BitVec.ofNat 192 (a.toNat * 2 ^ 64 / b.toNat), busy := false, done := true })

/-- R112: for b != 0, QDIV overflows exactly when a >= b * 2^128; for a = MAX_UQINT, exactly when b < ONE. -/
def Obligations.QdivOverflowBoundary : Prop :=
  ∀ (a b : Word) (s : State), b.toNat ≠ 0 →
    (2 ^ 192 - 1 < a.toNat * 2 ^ 64 / b.toNat ↔ 2 ^ 192 ≤ a.toNat * 2 ^ 64 / b.toNat) ∧
    (2 ^ 192 ≤ a.toNat * 2 ^ 64 / b.toNat ↔ 2 ^ 192 * b.toNat ≤ a.toNat * 2 ^ 64) ∧
    (2 ^ 192 * b.toNat ≤ a.toNat * 2 ^ 64 ↔ b.toNat * 2 ^ 128 ≤ a.toNat) ∧
    ∃ t : State, exec (.qdiv a b) s = .next t ∧ (t.sts = 7 ↔ b.toNat * 2 ^ 128 ≤ a.toNat) ∧
      (a.toNat = 2 ^ 192 - 1 → (t.sts = 7 ↔ b.toNat < 2 ^ 64))

/-- The bound of R114 on a quotient that succeeds, and R113's point that no dividend overflows by itself: dividing by ONE
gives every dividend back. -/
def Obligations.QdivTruncatesTowardZero : Prop :=
  (∀ (a b : Word) (s t : State), exec (.qdiv a b) s = .next t → t.sts = 0 →
    t.res.toNat * b.toNat ≤ a.toNat * 2 ^ 64 ∧ a.toNat * 2 ^ 64 < (t.res.toNat + 1) * b.toNat) ∧
  ∀ (a : Word) (s : State),
    a.toNat * 2 ^ 64 < 2 ^ 256 ∧
    exec (.qdiv a (BitVec.ofNat 192 (2 ^ 64))) s = .next { s with sts := 0, res := a, busy := false, done := true }

/-- R115: a zero divisor fails for every a; QDIV is not commutative; QDIV MAX_UQINT, 1 overflows. -/
def Obligations.QdivByZeroFails : Prop :=
  ∀ s : State,
    (∀ a : Word, exec (.qdiv a 0) s = .next { s with sts := 6, res := 0, busy := false, done := true }) ∧
    (∃ a b : Word, exec (.qdiv a b) s ≠ exec (.qdiv b a) s) ∧
    exec (.qdiv (BitVec.ofNat 192 (2 ^ 192 - 1)) 1) s =
      .next { s with sts := 7, res := 0, busy := false, done := true }

/-! ## Exponentiation -/

/-- R121, for both values of POW_VARIANT: QPOW succeeds exactly when no product of the schedule overflows, with the
accumulator after the highest bit of e, and otherwise fails with ExponentiationOverflow. The right-hand sides are the
closed sequences of `Safety.lean`, not the loop. -/
def Obligations.QpowFollowsSchedule : Prop :=
  ∀ (base e : Word) (s : State),
    decode ⟨0x0A, base, e⟩ = .ok (.qpow base e) ∧
    (PowFits s.cfg.powVariant base.toNat e.toNat →
      accAt base.toNat e.toNat e.toNat.size ≤ 2 ^ 192 - 1 ∧
      exec (.qpow base e) s = .next { s with
        sts := 0, res := BitVec.ofNat 192 (accAt base.toNat e.toNat e.toNat.size), busy := false, done := true }) ∧
    (¬ PowFits s.cfg.powVariant base.toNat e.toNat →
      exec (.qpow base e) s = .next { s with sts := 9, res := 0, busy := false, done := true })

/-- R122: QPOW base, 0 is ONE for every base and both values of POW_VARIANT. -/
def Obligations.QpowZeroExponentGivesOne : Prop :=
  ∀ (base : Word) (s : State),
    exec (.qpow base 0) s =
      .next { s with sts := 0, res := BitVec.ofNat 192 (2 ^ 64), busy := false, done := true }

/-- The counts of R123 for a run that meets no overflow, and that a run that meets one makes no more calls. -/
def Obligations.QpowCallCounts : Prop :=
  ∀ (base e : Word),
    (∀ w : PowWork, powRun .rtlGuarded base e = .ok w →
      w.products = setBits e.toNat ∧ w.squarings = e.toNat.size - 1) ∧
    (∀ w : PowWork, powRun .rtlUnguarded base e = .ok w →
      w.products = setBits e.toNat ∧ w.squarings = e.toNat.size) ∧
    (∀ w : PowWork, powRun .rtlGuarded base e = .error w →
      w.products ≤ setBits e.toNat ∧ w.squarings ≤ e.toNat.size - 1) ∧
    ∀ w : PowWork, powRun .rtlUnguarded base e = .error w →
      w.products ≤ setBits e.toNat ∧ w.squarings ≤ e.toNat.size

/-- The first bound of R124: a QPOW that succeeds is never above the exact power base^e / 2^(64(e-1)). -/
def Obligations.QpowNeverAboveExactPower : Prop :=
  ∀ (base e : Word) (s t : State), exec (.qpow base e) s = .next t → t.sts = 0 →
    t.res.toNat * 2 ^ (64 * e.toNat) ≤ base.toNat ^ e.toNat * 2 ^ 64

/-- R125: the identities under RTL_GUARDED; the last two hold under both schedules, the first two not. -/
def Obligations.QpowIdentities : Prop :=
  (∀ (x : Word) (s : State), s.cfg.powVariant = .rtlGuarded →
    exec (.qpow x 1) s = .next { s with sts := 0, res := x, busy := false, done := true } ∧
    ∃ t u : State, exec (.qpow x 2) s = .next t ∧ exec (.qmul x x) s = .next u ∧ t.res = u.res ∧
      (u.sts = 0 ↔ t.sts = 0) ∧ (u.sts = 5 ↔ t.sts = 9) ∧ (t.sts = 0 ∨ t.sts = 9)) ∧
  (∀ (e : Word) (s : State),
    exec (.qpow (BitVec.ofNat 192 (2 ^ 64)) e) s =
      .next { s with sts := 0, res := BitVec.ofNat 192 (2 ^ 64), busy := false, done := true } ∧
    (1 ≤ e.toNat → exec (.qpow 0 e) s = .next { s with sts := 0, res := 0, busy := false, done := true })) ∧
  ∀ s : State, s.cfg.powVariant = .rtlUnguarded →
    exec (.qpow (BitVec.ofNat 192 (2 ^ 192 - 1)) 1) s =
      .next { s with sts := 9, res := 0, busy := false, done := true } ∧
    exec (.qpow (BitVec.ofNat 192 (2 ^ 104)) 2) s =
      .next { s with sts := 9, res := 0, busy := false, done := true } ∧
    ∃ u : State, exec (.qmul (BitVec.ofNat 192 (2 ^ 104)) (BitVec.ofNat 192 (2 ^ 104))) s = .next u ∧ u.sts = 0

/-- The bounds of R126: the loop is over (k = 0) after at most 192 turns, and makes at most 192 accumulator products and
191 squarings under RTL_GUARDED, 192 under RTL_UNGUARDED. -/
def Obligations.QpowIsBounded : Prop :=
  ∀ (v : PowVariant) (base e : Word),
    (∀ w : PowWork, powRun v base e = .ok w → w.k = 0) ∧
    (powCalls v base e).1 ≤ 192 ∧
    (powCalls .rtlGuarded base e).2 ≤ 191 ∧
    (powCalls .rtlUnguarded base e).2 ≤ 192

/-! ## Status and failures -/

/-- R140: every code, the opcode that raises it and its condition; every other command succeeds with code 0. -/
def Obligations.StatusTable : Prop :=
  ∀ (v : PowVariant) (op : Opcode) (a b : Word),
    ((specExec v op a b).status.code = 1 ↔ op = 0x01 ∧ 2 ^ 128 - 1 < a.toNat) ∧
    ((specExec v op a b).status.code = 2 ↔ op = 0x02 ∧ a.toNat % 2 ^ 64 ≠ 0) ∧
    ((specExec v op a b).status.code = 3 ↔ op = 0x06 ∧ 2 ^ 192 - 1 < a.toNat + b.toNat) ∧
    ((specExec v op a b).status.code = 4 ↔ op = 0x07 ∧ a.toNat < b.toNat) ∧
    ((specExec v op a b).status.code = 5 ↔ op = 0x08 ∧ 2 ^ 192 - 1 < a.toNat * b.toNat / 2 ^ 64) ∧
    ((specExec v op a b).status.code = 6 ↔ op = 0x09 ∧ b.toNat = 0) ∧
    ((specExec v op a b).status.code = 7 ↔
      op = 0x09 ∧ b.toNat ≠ 0 ∧ 2 ^ 192 - 1 < a.toNat * 2 ^ 64 / b.toNat) ∧
    ((specExec v op a b).status.code = 8 ↔
      op = 0x05 ∧ a.toNat % 2 ^ 64 ≠ 0 ∧ a.toNat / 2 ^ 64 = 2 ^ 128 - 1) ∧
    ((specExec v op a b).status.code = 9 ↔ op = 0x0A ∧ ¬ PowFits v a.toNat b.toNat) ∧
    ((specExec v op a b).status.code = 15 ↔ op = 0x00 ∨ 0x0B ≤ op.toNat) ∧
    ¬ (10 ≤ (specExec v op a b).status.code.toNat ∧ (specExec v op a b).status.code.toNat ≤ 14) ∧
    ((specExec v op a b).status.code ≠ 0 → (specExec v op a b).result = 0)

/-- R141: no two outcomes share a code. -/
def Obligations.StatusCodesAreDistinct : Prop :=
  ∀ x y : Status, x.code = y.code → x = y

/-- Every instruction completes from every state: it changes STS, RES, BUSY and DONE and nothing else, a failure leaves
RES = 0, and what it writes does not depend on the last response (R144, R145). -/
def Obligations.EveryInstructionCompletesPrecisely : Prop :=
  ∀ (i : Instr) (s : State), ∃ (c : StatusWord) (r : Word),
    exec i s = .next { s with sts := c, res := r, busy := false, done := true } ∧
    (c.toNat ≤ 9) ∧ (c ≠ 0 → r = 0) ∧
    ∀ (sts : StatusWord) (res : Word),
      exec i { s with sts := sts, res := res } = .next { s with sts := c, res := r, busy := false, done := true }

/-- R54: the unary opcodes give the same response for every B, and the assembler writes B = 0 for them. -/
def Obligations.IgnoredOperandHasNoEffect : Prop :=
  ∀ (op : Opcode), 0x01 ≤ op.toNat → op.toNat ≤ 0x05 →
    (∀ (v : PowVariant) (a b b' : Word), specExec v op a b = specExec v op a b') ∧
    ∀ (text : List Char) (l : Line), readCommand op [text] = .ok l → ∃ x : Operand, l = .command op x (.literal 0)

/-! ## Events -/

/-- R26: when ACCEPT is enabled, its whole effect, and that a command presented while BUSY = 1 is not lost: it has no effect
while the command in flight goes on, and if the port still presents it at the first step with BUSY = 0, that step is its
ACCEPT (R166). STS is legal by the invariant (R32). The step that goes on is `stall` (log 2), and what the port presents
at the next step is the next drive (log 1). -/
def Obligations.AcceptLatchesCommand : Prop :=
  (∀ s : State, s.acceptEnabled = true ↔ s.now.reqValid = true ∧ s.busy = false ∧ s.now.rst = false) ∧
  ∀ s : State, (s.sts.toNat ≤ 9 ∨ s.sts.toNat = 15) → s.now.rst = false →
    (s.now.reqValid = true → s.busy = false →
      step s = .next { s.advance with
        opl := s.now.reqOp, al := s.now.reqA, bl := s.now.reqB, busy := true, done := false }) ∧
    (s.busy = true → s.acceptEnabled = false ∧
      (s.now.stall = true → step s = .next s.advance) ∧
      (s.now.stall = false → s.now.reqValid = true →
        s.advance.now.reqValid = true → s.advance.requested = s.requested → s.advance.now.rst = false →
        ∃ t : State, step s = .next t ∧ t.busy = false ∧ t.now = s.advance.now ∧
          step t = .next { t.advance with
            opl := s.now.reqOp, al := s.now.reqA, bl := s.now.reqB, busy := true, done := false }))

/-- R27: when COMPLETE is enabled; it writes EXEC of the latched command, clears BUSY and sets DONE; until it occurs
nothing changes. -/
def Obligations.CompleteAppliesExec : Prop :=
  (∀ s : State, s.completeEnabled = true ↔ s.busy = true ∧ s.now.rst = false) ∧
  ∀ s : State, (s.sts.toNat ≤ 9 ∨ s.sts.toNat = 15) → s.busy = true → s.now.rst = false →
    (s.now.stall = false →
      step s = .next { s.advance with
        sts := (specExec s.cfg.powVariant s.opl s.al s.bl).status.code
        res := (specExec s.cfg.powVariant s.opl s.al s.bl).result
        busy := false
        done := true }) ∧
    (s.now.stall = true → step s = .next s.advance) ∧
    ((specExec s.cfg.powVariant s.opl s.al s.bl).status.code ≠ 0 →
      (specExec s.cfg.powVariant s.opl s.al s.bl).result = 0)

/-- When the latched command decodes to i, the step that completes it is `exec i` with the drives moved on (log 1, DESIGN
CHOICE; the stall is log 2's). The last clause is no rule's: QCORE fetches nothing (R21), and that `withFetchWord` puts the
command into the latches, so that the next step runs it, is the model's choice (log 7, DESIGN CHOICE). -/
def Obligations.StepRunsDecodedInstruction : Prop :=
  ∀ (s : State) (i : Instr), (s.sts.toNat ≤ 9 ∨ s.sts.toNat = 15) →
    (s.busy = true → s.now.rst = false → s.now.stall = false → decode ⟨s.opl, s.al, s.bl⟩ = .ok i →
      step s = exec i s.advance) ∧
    step (s.withFetchWord 392 (encode i).toNat) = exec i (s.withFetchWord 392 (encode i).toNat).advance

/-- R57 and R146: a reserved opcode is accepted like any other, completes with STS = 15 and RES = 0 for every A and B, and
has no other effect. -/
def Obligations.ReservedOpcodeCompletesIllegal : Prop :=
  ∀ s : State, (s.sts.toNat ≤ 9 ∨ s.sts.toNat = 15) → s.now.rst = false →
    (s.busy = false → s.now.reqValid = true → (s.now.reqOp = 0x00 ∨ 0x0B ≤ s.now.reqOp.toNat) →
      step s = .next { s.advance with
        opl := s.now.reqOp, al := s.now.reqA, bl := s.now.reqB, busy := true, done := false }) ∧
    (s.busy = true → s.now.stall = false → (s.opl = 0x00 ∨ 0x0B ≤ s.opl.toNat) →
      step s = .next { s.advance with sts := 15, res := 0, busy := false, done := true })

/-- R160: RESET from any state, a command in flight or not; neither other event is enabled meanwhile; the reset state. -/
def Obligations.ResetClearsRegisters : Prop :=
  (∀ s : State, s.now.rst = true →
    s.acceptEnabled = false ∧ s.completeEnabled = false ∧
    step s = .next { s.advance with
      res := 0, sts := 0, busy := false, done := false, opl := 0, al := 0, bl := 0 }) ∧
  State.reset.res = 0 ∧ State.reset.sts = 0 ∧ State.reset.busy = false ∧ State.reset.done = false ∧
  State.reset.opl = 0 ∧ State.reset.al = 0 ∧ State.reset.bl = 0 ∧ State.reset.reqReady = true

/-- R29: the outputs are these functions of the registers and depend on no input. -/
def Obligations.OutputsFollowRegisters : Prop :=
  ∀ (s : State) (d : Drive),
    s.reqReady = !s.busy ∧ s.rspDone = s.done ∧ s.rspSts = s.sts ∧ s.rspRes = s.res ∧
    ({ s with now := d } : State).reqReady = s.reqReady ∧ ({ s with now := d } : State).rspDone = s.rspDone ∧
    ({ s with now := d } : State).rspSts = s.rspSts ∧ ({ s with now := d } : State).rspRes = s.rspRes

/-- R34, first part: while a command is in flight, the request port has no effect on it. -/
def Obligations.RequestPortCannotDisturbCommand : Prop :=
  ∀ (s : State) (valid : Bool) (op : Opcode) (a b : Word), s.busy = true →
    step { s with now := { s.now with reqValid := valid, reqOp := op, reqA := a, reqB := b } } = step s

/-- Registers change only by ACCEPT, COMPLETE and RESET, and RES and STS only by COMPLETE and RESET (R23, R24, R45); an
idle core keeps everything (R154). -/
def Obligations.RegistersChangeOnlyByEvents : Prop :=
  ∀ s t : State, step s = .next t → s.now.rst = false →
    ((s.busy = true → s.now.stall = true) → (s.busy = false → s.now.reqValid = false) → registers t = registers s) ∧
    ((s.busy = true → s.now.stall = true) → t.res = s.res ∧ t.sts = s.sts) ∧
    (s.busy = true → t.opl = s.opl ∧ t.al = s.al ∧ t.bl = s.bl)

/-- No step changes the build, and the constants keep their values (R11, R25, R164). -/
def Obligations.BuildIsNeverWritten : Prop :=
  (∀ s t : State, step s = .next t → t.cfg = s.cfg) ∧
  one = 2 ^ 64 ∧ maxUq = 2 ^ 192 - 1 ∧ maxConvertible = 2 ^ 128 - 1 ∧ maxConvertible * one ≤ maxUq

/-! ## The whole machine -/

/-- The invariants of R32 are kept by every step, from every state that has them. -/
def Obligations.StepKeepsInvariants : Prop :=
  ∀ s t : State, Inv s → step s = .next t → Inv t

/-- The invariants of R32 hold at reset, and so does R162's. -/
def Obligations.ResetHasInvariants : Prop :=
  Inv State.reset ∧ Untouched State.reset

/-- R32: the invariants hold in every state reached from reset, whatever the host and the scheduler do and whichever build
it is. -/
def Obligations.InvariantsHoldWhereverReached : Prop :=
  ∀ (now : Drive) (later : List Drive) (cfg : Config) (k : Nat) (t : State),
    Sys2Proof.core.run k { State.reset with now := now, later := later, cfg := cfg } = .next t → Inv t

/-- Every step keeps this: with neither a command in flight nor a response present, the registers are as reset left them,
so RES and STS then are no command's response (R162). -/
def Obligations.StepKeepsUntouched : Prop :=
  ∀ s t : State, Untouched s → step s = .next t → Untouched t

/-- A step goes on from every state with the invariants: no error state is reached from a good one (R61, R140, R168). -/
def Obligations.GoodStateStepsOn : Prop :=
  ∀ s : State, Inv s → ∃ t : State, step s = .next t ∧ Inv t

/-- Where a step stops: exactly in the states whose STS holds a code that is never written, while `rst` is 0. The fault is
the treatment of `93_implementation_defined.md` section 2 (log 5). -/
def Obligations.OnlyReservedStatusFaults : Prop :=
  ∀ s : State,
    (10 ≤ s.sts.toNat ∧ s.sts.toNat ≤ 14 ∧ s.now.rst = false ↔ step s = .fault .reservedStatus) ∧
    ∀ r : Refusal, step s ≠ .refused r

/-- Every accepted command completes unless a reset intervenes, with its own response (R168): within two steps more than
the schedule names. The bound rests on the model's finite schedule (log 2). -/
def Obligations.EveryCommandCompletes : Prop :=
  ∀ s : State, (s.sts.toNat ≤ 9 ∨ s.sts.toNat = 15) → s.busy = true → NoReset s →
    ∃ k ≤ s.later.length + 2, ∃ t : State, Sys2Proof.core.run k s = .next t ∧
      t.busy = false ∧ t.done = true ∧
      t.sts = (specExec s.cfg.powVariant s.opl s.al s.bl).status.code ∧
      t.res = (specExec s.cfg.powVariant s.opl s.al s.bl).result

/-- Two idle cores of one build with any two pasts, given the same command and then let go, end in the same state (R32
clause 5, R45). -/
def Obligations.ResponseIndependentOfHistory : Prop :=
  ∀ s s' : State,
    (s.sts.toNat ≤ 9 ∨ s.sts.toNat = 15) → (s'.sts.toNat ≤ 9 ∨ s'.sts.toNat = 15) →
    s.busy = false → s'.busy = false → s'.now = s.now → s'.later = s.later → s'.cfg = s.cfg →
    s.now.rst = false → s.now.reqValid = true → s.advance.now.rst = false → s.advance.now.stall = false →
    ∃ t : State, Sys2Proof.core.run 2 s = .next t ∧ Sys2Proof.core.run 2 s' = .next t ∧ t.done = true

/-! ## The host's side -/

/-- The host's read of the response is refused exactly while DONE = 0, and a result is usable exactly when STS = 0 as well
(R165, R167). That the read is refused is the treatment of `93_implementation_defined.md` section 2 (log 11). The read is of
the registers before the step's event, a RESET whose `rst` this state's drive raises included (log 4). -/
def Obligations.HostReadsOnlyPresentResponses : Prop :=
  ∀ (s : State) (r : Word),
    (s.readResponse = .error .staleResponse ↔ s.done = false) ∧
    (s.done = true → s.readResponse = .ok (s.sts, s.res)) ∧
    (s.acceptedResult = some r ↔ s.done = true ∧ s.sts = 0 ∧ s.res = r)

/-- The numbers an assembler may put on the port, and encode(r) = floor(r * 2^64) (R59). -/
def Obligations.AssemblerNumbers : Prop :=
  (∀ n : Nat,
    (n ≤ 2 ^ 192 - 1 → ∃ w : Word, portWord n = .ok w ∧ w.toNat = n) ∧
    (2 ^ 192 - 1 < n → portWord n = .error .operandTooWide)) ∧
  ∀ digits scale : Nat,
    encodeFraction digits scale * 10 ^ scale ≤ digits * 2 ^ 64 ∧
    digits * 2 ^ 64 < (encodeFraction digits scale + 1) * 10 ^ scale

/-- A command line of a host script blocks (R60). While the host presents a command, it stays at its line until the step that
accepts that very command (action 2); then, with `req_valid` = 0, it stays there as long as `rsp_done` = 0, whatever the
schedule holds, a stall or a reset included (actions 3 and 4), and goes to the next line once `rsp_done` = 1. On an idle core
with nothing else driven this takes four host steps, and the response of this very command is present. The count of four
and the host's steps are the model's (log 13). -/
def Obligations.CommandLineBlocksUntilResponse : Prop :=
  (∀ (h : ScriptHost) (c : Command), h.phase = .presenting c → (h.core.sts.toNat ≤ 9 ∨ h.core.sts.toNat = 15) →
    (h.core.busy = true ∨ h.core.now.rst = true → ∃ t : ScriptHost, h.step = .next t ∧
      t.phase = .presenting c ∧ t.line = h.line ∧ t.vars = h.vars ∧ t.script = h.script ∧
      step (h.core.present c) = .next t.core) ∧
    (h.core.busy = false → h.core.now.rst = false → ∃ t : ScriptHost, h.step = .next t ∧
      t.phase = .awaiting ∧ t.line = h.line ∧ t.vars = h.vars ∧ t.script = h.script ∧
      step (h.core.present c) = .next t.core ∧
      t.core.opl = c.op ∧ t.core.al = c.a ∧ t.core.bl = c.b ∧ t.core.busy = true ∧ t.core.done = false)) ∧
  (∀ h : ScriptHost, h.phase = .awaiting → (h.core.sts.toNat ≤ 9 ∨ h.core.sts.toNat = 15) →
    (h.core.done = false → ∃ t : ScriptHost, h.step = .next t ∧
      t.phase = .awaiting ∧ t.line = h.line ∧ t.vars = h.vars ∧ t.script = h.script ∧
      step h.core.withdraw = .next t.core) ∧
    (h.core.done = true → ∃ t : ScriptHost, h.step = .next t ∧
      t.phase = .ready ∧ t.line = h.line + 1 ∧ t.vars = h.vars ∧ t.script = h.script ∧ t.core = h.core)) ∧
  ∀ (h : ScriptHost) (st : Statement) (op : Opcode) (a b : Operand) (x y : Word),
    h.phase = .ready → h.script[h.line]? = some st → st.line = .command op a b →
    h.operandWord a = .ok x → h.operandWord b = .ok y →
    (h.core.sts.toNat ≤ 9 ∨ h.core.sts.toNat = 15) → h.core.busy = false → h.core.now.rst = false →
    h.core.later = [] →
    ∃ h1 h2 h3 h4 : ScriptHost,
      h.step = .next h1 ∧ h1.step = .next h2 ∧ h2.step = .next h3 ∧ h3.step = .next h4 ∧
      h4.phase = .ready ∧ h4.line = h.line + 1 ∧ h4.vars = h.vars ∧ h4.script = h.script ∧
      h4.core.readResponse = .ok ((specExec h.core.cfg.powVariant op x y).status.code,
        (specExec h.core.cfg.powVariant op x y).result)

/-- A command line of a host script ends with its own response (R60, R168), under every schedule without a reset: whatever
stalls it holds, and a command already in flight included, after finitely many host steps the host is at the next line and
the response present is EXEC of the line's command. The bound rests on the finite schedule (log 2) and on how the host
takes its steps (log 13). -/
def Obligations.CommandLineEndsWithItsResponse : Prop :=
  ∀ (h : ScriptHost) (st : Statement) (op : Opcode) (a b : Operand) (x y : Word),
    h.phase = .ready → h.script[h.line]? = some st → st.line = .command op a b →
    h.operandWord a = .ok x → h.operandWord b = .ok y →
    (h.core.sts.toNat ≤ 9 ∨ h.core.sts.toNat = 15) → NoReset h.core →
    ∃ k ≤ h.core.later.length + 6, ∃ t : ScriptHost, (scriptMachine h.script).run k h = .next t ∧
      t.phase = .ready ∧ t.line = h.line + 1 ∧ t.vars = h.vars ∧ t.script = h.script ∧
      t.core.readResponse = .ok ((specExec h.core.cfg.powVariant op x y).status.code,
        (specExec h.core.cfg.powVariant op x y).result)
end

