-- ==== Sys2Proof/Laws/State.lean ====
section
/-! SUPPORT. One lemma per field per update of State, so that no proof unfolds a record update. -/

namespace Sys2Proof.Machine

/-! ACCEPT (R26). -/

@[simp] theorem State.accept_res (c : Command) (s : State) : (s.accept c).res = s.res := rfl
@[simp] theorem State.accept_sts (c : Command) (s : State) : (s.accept c).sts = s.sts := rfl
@[simp] theorem State.accept_busy (c : Command) (s : State) : (s.accept c).busy = true := rfl
@[simp] theorem State.accept_done (c : Command) (s : State) : (s.accept c).done = false := rfl
@[simp] theorem State.accept_opl (c : Command) (s : State) : (s.accept c).opl = c.op := rfl
@[simp] theorem State.accept_al (c : Command) (s : State) : (s.accept c).al = c.a := rfl
@[simp] theorem State.accept_bl (c : Command) (s : State) : (s.accept c).bl = c.b := rfl
@[simp] theorem State.accept_now (c : Command) (s : State) : (s.accept c).now = s.now := rfl
@[simp] theorem State.accept_later (c : Command) (s : State) : (s.accept c).later = s.later := rfl
@[simp] theorem State.accept_cfg (c : Command) (s : State) : (s.accept c).cfg = s.cfg := rfl

/-! COMPLETE (R27). -/

@[simp] theorem State.complete_res (r : Response) (s : State) : (s.complete r).res = r.result := rfl
@[simp] theorem State.complete_sts (r : Response) (s : State) : (s.complete r).sts = r.status.code := rfl
@[simp] theorem State.complete_busy (r : Response) (s : State) : (s.complete r).busy = false := rfl
@[simp] theorem State.complete_done (r : Response) (s : State) : (s.complete r).done = true := rfl
@[simp] theorem State.complete_opl (r : Response) (s : State) : (s.complete r).opl = s.opl := rfl
@[simp] theorem State.complete_al (r : Response) (s : State) : (s.complete r).al = s.al := rfl
@[simp] theorem State.complete_bl (r : Response) (s : State) : (s.complete r).bl = s.bl := rfl
@[simp] theorem State.complete_now (r : Response) (s : State) : (s.complete r).now = s.now := rfl
@[simp] theorem State.complete_later (r : Response) (s : State) : (s.complete r).later = s.later := rfl
@[simp] theorem State.complete_cfg (r : Response) (s : State) : (s.complete r).cfg = s.cfg := rfl

/-! RESET (R160). -/

@[simp] theorem State.resetRegisters_res (s : State) : (s.resetRegisters).res = 0 := rfl
@[simp] theorem State.resetRegisters_sts (s : State) : (s.resetRegisters).sts = 0 := rfl
@[simp] theorem State.resetRegisters_busy (s : State) : (s.resetRegisters).busy = false := rfl
@[simp] theorem State.resetRegisters_done (s : State) : (s.resetRegisters).done = false := rfl
@[simp] theorem State.resetRegisters_opl (s : State) : (s.resetRegisters).opl = 0 := rfl
@[simp] theorem State.resetRegisters_al (s : State) : (s.resetRegisters).al = 0 := rfl
@[simp] theorem State.resetRegisters_bl (s : State) : (s.resetRegisters).bl = 0 := rfl
@[simp] theorem State.resetRegisters_now (s : State) : (s.resetRegisters).now = s.now := rfl
@[simp] theorem State.resetRegisters_later (s : State) : (s.resetRegisters).later = s.later := rfl
@[simp] theorem State.resetRegisters_cfg (s : State) : (s.resetRegisters).cfg = s.cfg := rfl

/-! A command put into the latches. -/

@[simp] theorem State.load_res (c : Command) (s : State) : (s.load c).res = s.res := rfl
@[simp] theorem State.load_sts (c : Command) (s : State) : (s.load c).sts = s.sts := rfl
@[simp] theorem State.load_busy (c : Command) (s : State) : (s.load c).busy = true := rfl
@[simp] theorem State.load_done (c : Command) (s : State) : (s.load c).done = false := rfl
@[simp] theorem State.load_opl (c : Command) (s : State) : (s.load c).opl = c.op := rfl
@[simp] theorem State.load_al (c : Command) (s : State) : (s.load c).al = c.a := rfl
@[simp] theorem State.load_bl (c : Command) (s : State) : (s.load c).bl = c.b := rfl
@[simp] theorem State.load_now (c : Command) (s : State) : (s.load c).now = { s.now with rst := false, stall := false } := rfl
@[simp] theorem State.load_later (c : Command) (s : State) : (s.load c).later = s.later := rfl
@[simp] theorem State.load_cfg (c : Command) (s : State) : (s.load c).cfg = s.cfg := rfl

/-! The host presents a command. -/

@[simp] theorem State.present_res (c : Command) (s : State) : (s.present c).res = s.res := rfl
@[simp] theorem State.present_sts (c : Command) (s : State) : (s.present c).sts = s.sts := rfl
@[simp] theorem State.present_busy (c : Command) (s : State) : (s.present c).busy = s.busy := rfl
@[simp] theorem State.present_done (c : Command) (s : State) : (s.present c).done = s.done := rfl
@[simp] theorem State.present_opl (c : Command) (s : State) : (s.present c).opl = s.opl := rfl
@[simp] theorem State.present_al (c : Command) (s : State) : (s.present c).al = s.al := rfl
@[simp] theorem State.present_bl (c : Command) (s : State) : (s.present c).bl = s.bl := rfl
@[simp] theorem State.present_now (c : Command) (s : State) : (s.present c).now = { s.now with reqValid := true, reqOp := c.op, reqA := c.a, reqB := c.b } := rfl
@[simp] theorem State.present_later (c : Command) (s : State) : (s.present c).later = s.later := rfl
@[simp] theorem State.present_cfg (c : Command) (s : State) : (s.present c).cfg = s.cfg := rfl

/-! The host presents nothing. -/

@[simp] theorem State.withdraw_res (s : State) : (s.withdraw).res = s.res := rfl
@[simp] theorem State.withdraw_sts (s : State) : (s.withdraw).sts = s.sts := rfl
@[simp] theorem State.withdraw_busy (s : State) : (s.withdraw).busy = s.busy := rfl
@[simp] theorem State.withdraw_done (s : State) : (s.withdraw).done = s.done := rfl
@[simp] theorem State.withdraw_opl (s : State) : (s.withdraw).opl = s.opl := rfl
@[simp] theorem State.withdraw_al (s : State) : (s.withdraw).al = s.al := rfl
@[simp] theorem State.withdraw_bl (s : State) : (s.withdraw).bl = s.bl := rfl
@[simp] theorem State.withdraw_now (s : State) : (s.withdraw).now = { s.now with reqValid := false } := rfl
@[simp] theorem State.withdraw_later (s : State) : (s.withdraw).later = s.later := rfl
@[simp] theorem State.withdraw_cfg (s : State) : (s.withdraw).cfg = s.cfg := rfl

/-! Time goes on: only the drives move. -/

@[simp] theorem State.advance_res (s : State) : s.advance.res = s.res := by unfold State.advance; split <;> rfl
@[simp] theorem State.advance_sts (s : State) : s.advance.sts = s.sts := by unfold State.advance; split <;> rfl
@[simp] theorem State.advance_busy (s : State) : s.advance.busy = s.busy := by unfold State.advance; split <;> rfl
@[simp] theorem State.advance_done (s : State) : s.advance.done = s.done := by unfold State.advance; split <;> rfl
@[simp] theorem State.advance_opl (s : State) : s.advance.opl = s.opl := by unfold State.advance; split <;> rfl
@[simp] theorem State.advance_al (s : State) : s.advance.al = s.al := by unfold State.advance; split <;> rfl
@[simp] theorem State.advance_bl (s : State) : s.advance.bl = s.bl := by unfold State.advance; split <;> rfl
@[simp] theorem State.advance_cfg (s : State) : s.advance.cfg = s.cfg := by unfold State.advance; split <;> rfl

theorem State.advance_of_nil (s : State) (h : s.later = []) : s.advance = { s with now := .idle } := by
  simp [State.advance, h]

theorem State.advance_of_cons (s : State) (d : Drive) (ds : List Drive) (h : s.later = d :: ds) :
    s.advance = { s with now := d, later := ds } := by
  simp [State.advance, h]

/-- What `advance` does depends only on the schedule, so it commutes with every update of the registers. -/
theorem State.advance_now_congr (s s' : State) (h : s'.later = s.later) : s'.advance.now = s.advance.now := by
  unfold State.advance
  rw [h]
  cases s.later <;> rfl

theorem State.advance_later_congr (s s' : State) (h : s'.later = s.later) : s'.advance.later = s.advance.later := by
  unfold State.advance
  rw [h]
  cases s.later <;> rfl

/-- Two states are equal when their ten fields are. -/
theorem State.ext_fields (s t : State) (h1 : s.res = t.res) (h2 : s.sts = t.sts) (h3 : s.busy = t.busy)
    (h4 : s.done = t.done) (h5 : s.opl = t.opl) (h6 : s.al = t.al) (h7 : s.bl = t.bl) (h8 : s.now = t.now)
    (h9 : s.later = t.later) (h10 : s.cfg = t.cfg) : s = t := by
  cases s
  cases t
  simp_all

end Sys2Proof.Machine
end

