-- ==== Sys2Proof/Laws/Ops.lean ====
section
/-! SUPPORT. What each shared operation can do: the codes, the events, and the step by cases. -/

namespace Sys2Proof.Machine

/-! Status codes. -/

@[simp] theorem succeed_status (v : Nat) : (succeed v).status = .ok := rfl
@[simp] theorem succeed_result (v : Nat) : (succeed v).result = BitVec.ofNat 192 v := rfl
@[simp] theorem raise_status (e : Status) : (raise e).status = e := rfl
@[simp] theorem raise_result (e : Status) : (raise e).result = 0 := rfl

theorem Status.code_legal (e : Status) : e.code.toNat ≤ 9 ∨ e.code.toNat = 15 := by
  cases e <;> decide

theorem Status.code_eq_zero_iff (e : Status) : e.code = 0 ↔ e = .ok := by
  cases e <;> decide

theorem legalStatus_iff (sts : StatusWord) : legalStatus sts = true ↔ sts.toNat ≤ 9 ∨ sts.toNat = 15 := by
  have h : sts = 15 ↔ sts.toNat = 15 := ⟨fun h => h ▸ rfl, fun h => BitVec.eq_of_toNat_eq h⟩
  rw [← h]
  simp [legalStatus]

/-- A response as `succeed` and `raise` make them: RES = 0 unless the status is OK (R144). -/
def Response.Precise (r : Response) : Prop := r.status ≠ .ok → r.result = 0

theorem succeed_precise (v : Nat) : (succeed v).Precise := fun h => absurd rfl h
theorem raise_precise (e : Status) : (raise e).Precise := fun _ => rfl

/-! Enabling conditions and events. -/

theorem acceptEnabled_iff (s : State) :
    s.acceptEnabled = true ↔ s.now.reqValid = true ∧ s.busy = false ∧ s.now.rst = false := by
  simp [State.acceptEnabled, State.reqReady, and_assoc]

theorem completeEnabled_iff (s : State) : s.completeEnabled = true ↔ s.busy = true ∧ s.now.rst = false := by
  simp [State.completeEnabled]

/-- ACCEPT and COMPLETE are never enabled together. -/
theorem accept_complete_exclusive (s : State) : ¬(s.acceptEnabled = true ∧ s.completeEnabled = true) := by
  rw [acceptEnabled_iff, completeEnabled_iff]
  rintro ⟨⟨_, hb, _⟩, hb', _⟩
  simp [hb] at hb'

theorem event_of_rst (s : State) (h : s.now.rst = true) : s.event = .reset := by simp [State.event, h]

theorem event_of_broken (s : State) (h : s.now.rst = false) (hl : legalStatus s.sts = false) :
    s.event = .brokenStatus := by
  simp [State.event, h, hl]

section LegalStatus
variable (s : State) (hr : s.now.rst = false) (hl : legalStatus s.sts = true)
include hr hl

theorem event_of_stall (hb : s.busy = true) (hs : s.now.stall = true) : s.event = .wait := by
  simp [State.event, State.completeEnabled, hr, hl, hb, hs]

theorem event_of_complete (hb : s.busy = true) (hs : s.now.stall = false) : s.event = .complete := by
  simp [State.event, State.completeEnabled, hr, hl, hb, hs]

theorem event_of_request (hb : s.busy = false) (hv : s.now.reqValid = true) : s.event = .accept := by
  simp [State.event, State.completeEnabled, State.acceptEnabled, State.reqReady, hr, hl, hb, hv]

theorem event_of_idle (hb : s.busy = false) (hv : s.now.reqValid = false) : s.event = .idle := by
  simp [State.event, State.completeEnabled, State.acceptEnabled, State.reqReady, hr, hl, hb, hv]

end LegalStatus

/-! The step in each event. -/

theorem step_of_reset (s : State) (h : s.event = .reset) : step s = .next s.advance.resetRegisters := by
  simp [step, h]

theorem step_of_broken (s : State) (h : s.event = .brokenStatus) : step s = .fault .reservedStatus := by
  simp [step, h]

theorem step_of_wait (s : State) (h : s.event = .wait) : step s = .next s.advance := by simp [step, h]

theorem step_of_accept (s : State) (h : s.event = .accept) : step s = .next (s.advance.accept s.requested) := by
  simp [step, h]

theorem step_of_idle (s : State) (h : s.event = .idle) : step s = .next s.advance := by simp [step, h]

theorem step_of_instr (s : State) (i : Instr) (h : s.event = .complete) (hd : s.inFlight = .ok i) :
    step s = exec i s.advance := by
  simp [step, h, hd]

theorem step_of_illegal (s : State) (e : DecodeError) (h : s.event = .complete) (hd : s.inFlight = .error e) :
    step s = .next s.advance.completeIllegal := by
  simp [step, h, hd]

/-! A command put into the latches, and runs. -/

theorem event_load (c : Command) (s : State) (hl : legalStatus s.sts = true) : (s.load c).event = .complete :=
  event_of_complete _ (by simp) (by simpa using hl) (by simp) (by simp)

theorem inFlight_load (c : Command) (s : State) : (s.load c).inFlight = decode c := rfl

theorem tableBits_full (w : Nat) : tableBits 392 w = w := if_neg (by decide)

theorem withFetchWord_full (s : State) (w : Nat) : s.withFetchWord 392 w = s.load (Command.ofBits w) := by
  rw [State.withFetchWord, tableBits_full]

/-- A run whose first step goes on is the run of one step less from there. -/
theorem run_succ (M : Host.Core) (k : Nat) (s t : M.State) (h : M.step s = .next t) : M.run (k + 1) s = M.run k t := by
  rw [Host.Core.run, h]

/-- A run that goes on made a first step that goes on. -/
theorem run_inv (M : Host.Core) (k : Nat) (s t : M.State) (h : M.run (k + 1) s = .next t) :
    ∃ u, M.step s = .next u ∧ M.run k u = .next t := by
  rw [Host.Core.run] at h
  cases hs : M.step s with
  | next u => exact ⟨u, rfl, by rw [hs] at h; exact h⟩
  | fault r => rw [hs] at h; cases h
  | refused r => rw [hs] at h; cases h

theorem core_run_zero (s : State) : Sys2Proof.core.run 0 s = .next s := rfl

theorem core_run_succ (k : Nat) (s t : State) (h : step s = .next t) :
    Sys2Proof.core.run (k + 1) s = Sys2Proof.core.run k t := run_succ Sys2Proof.core k s t h

theorem core_run_inv (k : Nat) (s t : State) (h : Sys2Proof.core.run (k + 1) s = .next t) :
    ∃ u : State, step s = .next u ∧ Sys2Proof.core.run k u = .next t := run_inv Sys2Proof.core k s t h

/-! Meanings. -/

theorem inttoqOp_precise (n : Word) : (inttoqOp n).Precise := by
  unfold inttoqOp; split
  · exact raise_precise _
  · exact succeed_precise _

theorem qtointOp_precise (x : Word) : (qtointOp x).Precise := by
  unfold qtointOp; split
  · exact raise_precise _
  · exact succeed_precise _

theorem qceilOp_precise (x : Word) : (qceilOp x).Precise := by
  unfold qceilOp; split
  · exact succeed_precise _
  · split
    · exact raise_precise _
    · exact succeed_precise _

theorem qaddOp_precise (a b : Word) : (qaddOp a b).Precise := by
  unfold qaddOp; split
  · exact raise_precise _
  · exact succeed_precise _

theorem qsubOp_precise (a b : Word) : (qsubOp a b).Precise := by
  unfold qsubOp; split
  · exact raise_precise _
  · exact succeed_precise _

theorem qmulOp_precise (a b : Word) : (qmulOp a b).Precise := by
  unfold qmulOp; split
  · exact raise_precise _
  · exact succeed_precise _

theorem qdivOp_precise (a b : Word) : (qdivOp a b).Precise := by
  unfold qdivOp; split
  · exact raise_precise _
  · split
    · exact raise_precise _
    · exact succeed_precise _

theorem qpowOp_precise (v : PowVariant) (base e : Word) : (qpowOp v base e).Precise := by
  unfold qpowOp; split
  · exact succeed_precise _
  · exact raise_precise _

/-- Everything a meaning can do: COMPLETE with a precise response that depends on the build but on no register. -/
theorem exec_completes (i : Instr) (cfg : Config) :
    ∃ r : Response, r.Precise ∧ ∀ s : State, s.cfg = cfg → exec i s = .next (s.complete r) := by
  cases i with
  | inttoq n b => exact ⟨_, inttoqOp_precise n, fun _ _ => rfl⟩
  | qtoint x b => exact ⟨_, qtointOp_precise x, fun _ _ => rfl⟩
  | qtointl x b => exact ⟨_, succeed_precise (intPart x), fun _ _ => rfl⟩
  | qfloor x b => exact ⟨_, succeed_precise (floorPart x), fun _ _ => rfl⟩
  | qceil x b => exact ⟨_, qceilOp_precise x, fun _ _ => rfl⟩
  | qadd a b => exact ⟨_, qaddOp_precise a b, fun _ _ => rfl⟩
  | qsub a b => exact ⟨_, qsubOp_precise a b, fun _ _ => rfl⟩
  | qmul a b => exact ⟨_, qmulOp_precise a b, fun _ _ => rfl⟩
  | qdiv a b => exact ⟨_, qdivOp_precise a b, fun _ _ => rfl⟩
  | qpow base e =>
    refine ⟨_, qpowOp_precise cfg.powVariant base e, fun s h => ?_⟩
    subst h
    rfl

/-- Everything a step that goes on can do, guards included. -/
theorem step_cases (s t : State) (h : step s = .next t) :
    (s.now.rst = true ∧ t = s.advance.resetRegisters) ∨
    (s.now.rst = false ∧ legalStatus s.sts = true ∧
      ((s.busy = true ∧ s.now.stall = true ∧ t = s.advance) ∨
       (s.busy = true ∧ s.now.stall = false ∧ ∃ i, s.inFlight = .ok i ∧ exec i s.advance = .next t) ∨
       (s.busy = true ∧ s.now.stall = false ∧ (∃ e, s.inFlight = .error e) ∧ t = s.advance.completeIllegal) ∨
       (s.busy = false ∧ s.now.reqValid = true ∧ t = s.advance.accept s.requested) ∨
       (s.busy = false ∧ s.now.reqValid = false ∧ t = s.advance))) := by
  cases hr : s.now.rst with
  | true =>
    rw [step_of_reset s (event_of_rst s hr)] at h
    cases h
    exact .inl ⟨rfl, rfl⟩
  | false =>
    right
    cases hl : legalStatus s.sts with
    | false =>
      rw [step_of_broken s (event_of_broken s hr hl)] at h
      cases h
    | true =>
      refine ⟨rfl, rfl, ?_⟩
      cases hb : s.busy with
      | true =>
        cases hs : s.now.stall with
        | true =>
          rw [step_of_wait s (event_of_stall s hr hl hb hs)] at h
          cases h
          exact .inl ⟨rfl, rfl, rfl⟩
        | false =>
          right
          have he := event_of_complete s hr hl hb hs
          cases hd : s.inFlight with
          | ok i =>
            rw [step_of_instr s i he hd] at h
            exact .inl ⟨rfl, rfl, i, rfl, h⟩
          | error e =>
            rw [step_of_illegal s e he hd] at h
            cases h
            exact .inr (.inl ⟨rfl, rfl, ⟨e, rfl⟩, rfl⟩)
      | false =>
        cases hv : s.now.reqValid with
        | true =>
          rw [step_of_accept s (event_of_request s hr hl hb hv)] at h
          cases h
          simp
        | false =>
          rw [step_of_idle s (event_of_idle s hr hl hb hv)] at h
          cases h
          simp

end Sys2Proof.Machine
end

