-- ==== Sys2Proof/Laws/HostScript.lean ====
section
/-! SUPPORT. The host's step by its phase, so that no proof unfolds it. -/

namespace Sys2Proof.Machine

/-- The core goes on, and the host takes the phase named. -/
theorem stepCore_next (h : ScriptHost) (d c : State) (p : Phase) (hs : step d = .next c) :
    h.stepCore d p = .next { h with core := c, phase := p } := by
  rw [ScriptHost.stepCore, hs]

/-- Between lines: a command line begins (R60). -/
theorem hostStep_command (h : ScriptHost) (st : Statement) (op : Opcode) (a b : Operand) (x y : Word)
    (hp : h.phase = .ready) (hl : h.script[h.line]? = some st) (hc : st.line = .command op a b)
    (ha : h.operandWord a = .ok x) (hb : h.operandWord b = .ok y) :
    h.step = .next { h with phase := .presenting ⟨op, x, y⟩ } := by
  simp only [ScriptHost.step, hp, hl, ScriptHost.act, hc, ha, hb]

/-- Presenting: one core step with the command on the port. -/
theorem hostStep_presenting (h : ScriptHost) (c : Command) (hp : h.phase = .presenting c) :
    h.step = h.stepCore (h.core.present c)
      (if (h.core.present c).acceptEnabled then .awaiting else .presenting c) := by
  simp only [ScriptHost.step, hp]

/-- Awaiting with DONE = 0: one core step with nothing on the port. -/
theorem hostStep_waits (h : ScriptHost) (hp : h.phase = .awaiting) (hd : h.core.done = false) :
    h.step = h.stepCore h.core.withdraw .awaiting := by
  simp [ScriptHost.step, hp, State.rspDone, hd]

/-- Awaiting with DONE = 1: on to the next line. -/
theorem hostStep_done (h : ScriptHost) (hp : h.phase = .awaiting) (hd : h.core.done = true) :
    h.step = .next { h.nextLine with phase := .ready } := by
  simp [ScriptHost.step, hp, State.rspDone, hd]

theorem scriptMachine_run_succ (script : List Statement) (k : Nat) (h t : ScriptHost) (hs : h.step = .next t) :
    (scriptMachine script).run (k + 1) h = (scriptMachine script).run k t := run_succ (scriptMachine script) k h t hs

end Sys2Proof.Machine
end

