-- ==== Sys2Proof/Laws/Operands.lean ====
section
/-! SUPPORT. Operands as arithmetic: the parts of a UQ value, narrowing, QMUL_RAW, and the turns of QPOW's loop. -/

namespace Sys2Proof.Machine

theorem one_eq : one = 2 ^ 64 := rfl
theorem maxUq_eq : maxUq = 2 ^ 192 - 1 := rfl
theorem maxConvertible_eq : maxConvertible = 2 ^ 128 - 1 := rfl

/-- `slice` is `v[hi:lo]` (R16). -/
theorem slice_eq_extractLsb (v : Word) (hi lo : Nat) : slice v hi lo = (v.extractLsb' lo (hi + 1 - lo)).toNat := by
  simp [slice, BitVec.extractLsb'_toNat, Nat.shiftRight_eq_div_pow]

theorem intPart_eq (x : Word) : intPart x = x.toNat / 2 ^ 64 := by
  have h := x.isLt
  unfold intPart slice
  omega

theorem fracPart_eq (x : Word) : fracPart x = x.toNat % 2 ^ 64 := by
  simp [fracPart, slice]

theorem floorPart_eq (x : Word) : floorPart x = x.toNat / 2 ^ 64 * 2 ^ 64 := by
  rw [floorPart, intPart_eq]

theorem intPart_lt (x : Word) : intPart x < 2 ^ 128 := by
  have h := x.isLt
  rw [intPart_eq]
  omega

/-- A UQ value is its integer part and its fraction (R13). -/
theorem floorPart_add_fracPart (x : Word) : floorPart x + fracPart x = x.toNat := by
  rw [floorPart_eq, fracPart_eq]
  omega

/-- Narrowing a value that fits changes nothing. -/
theorem toNat_ofNat_of_lt (n : Nat) (h : n < 2 ^ 192) : (BitVec.ofNat 192 n).toNat = n := by
  rw [BitVec.toNat_ofNat, Nat.mod_eq_of_lt h]

theorem ofNat_toNat_word (x : Word) : BitVec.ofNat 192 x.toNat = x := by simp

/-- QMUL_RAW overflows exactly when the exact product is at least 2^256 (R100). -/
theorem mulRaw_overflow_iff (a b : Nat) : (mulRaw a b).1 = true ↔ 2 ^ 256 ≤ a * b := by
  have : maxUq = 2 ^ 192 - 1 := rfl
  simp only [mulRaw, decide_eq_true_eq]
  omega

theorem mulRaw_value (a b : Nat) : (mulRaw a b).2 = a * b / 2 ^ 64 := rfl

theorem mulRaw_comm (a b : Nat) : mulRaw a b = mulRaw b a := by
  rw [mulRaw, mulRaw, Nat.mul_comm]

/-- The accumulator product, by cases of QMUL_RAW. -/
theorem powProduct_cases (w : PowWork) :
    (w.acc * w.b < 2 ^ 256 ∧
      powProduct w = .ok { w with acc := w.acc * w.b / 2 ^ 64, products := w.products + 1 }) ∨
    (2 ^ 256 ≤ w.acc * w.b ∧ powProduct w = .error { w with products := w.products + 1 }) := by
  by_cases h : (mulRaw w.acc w.b).1 = true
  · exact .inr ⟨(mulRaw_overflow_iff _ _).1 h, if_pos h⟩
  · exact .inl ⟨Nat.lt_of_not_le fun hc => h ((mulRaw_overflow_iff _ _).2 hc), if_neg h⟩

/-- The squaring, by cases of QMUL_RAW. -/
theorem powSquare_cases (w : PowWork) :
    (w.b * w.b < 2 ^ 256 ∧
      powSquare w = .ok { w with b := w.b * w.b / 2 ^ 64, squarings := w.squarings + 1 }) ∨
    (2 ^ 256 ≤ w.b * w.b ∧ powSquare w = .error { w with squarings := w.squarings + 1 }) := by
  by_cases h : (mulRaw w.b w.b).1 = true
  · exact .inr ⟨(mulRaw_overflow_iff _ _).1 h, if_pos h⟩
  · exact .inl ⟨Nat.lt_of_not_le fun hc => h ((mulRaw_overflow_iff _ _).2 hc), if_neg h⟩

/-- A turn on a 0 bit makes no product. -/
theorem powBit_of_zero (w : PowWork) (h : w.k % 2 ≠ 1) : powBit w = .ok { w with k := w.k / 2 } := by
  rw [powBit, if_neg h]

/-- A turn on a 1 bit whose product fits. -/
theorem powBit_of_product (w : PowWork) (h : w.k % 2 = 1) (hp : w.acc * w.b < 2 ^ 256) :
    powBit w = .ok { w with acc := w.acc * w.b / 2 ^ 64, k := w.k / 2, products := w.products + 1 } := by
  rcases powProduct_cases w with ⟨_, he⟩ | ⟨hc, _⟩
  · rw [powBit, if_pos h, he]
  · omega

/-- A turn on a 1 bit whose product overflows. -/
theorem powBit_of_overflow (w : PowWork) (h : w.k % 2 = 1) (hp : 2 ^ 256 ≤ w.acc * w.b) :
    powBit w = .error { w with products := w.products + 1 } := by
  rcases powProduct_cases w with ⟨hc, _⟩ | ⟨_, he⟩
  · omega
  · rw [powBit, if_pos h, he]

/-- A turn that squares: a higher bit remains, or the build is RTL_UNGUARDED. -/
theorem powTurn_of_square (v : PowVariant) (w w' : PowWork) (h : powBit w = .ok w')
    (hs : w'.k ≠ 0 ∨ v = .rtlUnguarded) : powTurn v w = powSquare w' := by
  simp only [powTurn, h, if_pos hs]

/-- A turn that does not square. -/
theorem powTurn_of_rest (v : PowVariant) (w w' : PowWork) (h : powBit w = .ok w')
    (hs : ¬(w'.k ≠ 0 ∨ v = .rtlUnguarded)) : powTurn v w = .ok w' := by
  simp only [powTurn, h, if_neg hs]

/-- A turn whose product overflows ends the loop. -/
theorem powTurn_of_overflow (v : PowVariant) (w w' : PowWork) (h : powBit w = .error w') :
    powTurn v w = .error w' := by
  simp only [powTurn, h]

/-- The loop does nothing more once k = 0. -/
theorem powLoop_done (v : PowVariant) (fuel : Nat) (w : PowWork) (h : w.k = 0) : powLoop v fuel w = .ok w := by
  cases fuel <;> simp [powLoop, h]

theorem powLoop_succ (v : PowVariant) (fuel : Nat) (w : PowWork) (h : w.k ≠ 0) :
    powLoop v (fuel + 1) w = match powTurn v w with
      | .ok w' => powLoop v fuel w'
      | .error w' => .error w' :=
  if_neg h

end Sys2Proof.Machine
end

