-- ==== Sys2Proof/Laws/PerInstr.lean ====
section
/-! SUPPORT. Per-instruction laws of the encoding. PortFields: the word an instruction encodes to carries its opcode, A and
B in the fields of the request port (R51). -/

namespace Sys2Proof.Laws

/-- Packing loses no field (R51). -/
theorem unpack_pack (c : Command) : Command.unpack c.pack = c := by
  obtain ⟨op, a, b⟩ := c
  have ho := op.isLt
  have ha := a.isLt
  have hb := b.isLt
  have hp : (Command.pack ⟨op, a, b⟩).toNat = b.toNat * 2 ^ 200 + a.toNat * 2 ^ 8 + op.toNat := by
    rw [Command.pack, BitVec.toNat_ofNat, Nat.mod_eq_of_lt]
    show b.toNat * 2 ^ 200 + a.toNat * 2 ^ 8 + op.toNat < 2 ^ 392
    omega
  rw [Command.unpack, Command.ofBits, hp]
  congr 1 <;> apply BitVec.eq_of_toNat_eq <;> rw [BitVec.toNat_ofNat] <;> omega

namespace PortFields

/-- The encoded word of an instruction holds its command. -/
def Statement (i : Instr) : Prop := Command.unpack (encode i) = i.command

theorem inttoq (n b : Word) : Statement (.inttoq n b) := unpack_pack _
theorem qtoint (x b : Word) : Statement (.qtoint x b) := unpack_pack _
theorem qtointl (x b : Word) : Statement (.qtointl x b) := unpack_pack _
theorem qfloor (x b : Word) : Statement (.qfloor x b) := unpack_pack _
theorem qceil (x b : Word) : Statement (.qceil x b) := unpack_pack _
theorem qadd (a b : Word) : Statement (.qadd a b) := unpack_pack _
theorem qsub (a b : Word) : Statement (.qsub a b) := unpack_pack _
theorem qmul (a b : Word) : Statement (.qmul a b) := unpack_pack _
theorem qdiv (a b : Word) : Statement (.qdiv a b) := unpack_pack _
theorem qpow (base e : Word) : Statement (.qpow base e) := unpack_pack _

end PortFields

end Sys2Proof.Laws
end

