-- ==== Sys2Proof/Laws/Safety.lean ====
section
/-! SUPPORT. EXEC (R56) at each opcode, so that no proof unfolds its case on the opcode. -/

namespace Sys2Proof.Safety

open Sys2Proof.Machine

variable (v : PowVariant) (a b : Word)

theorem specExec_inttoq : specExec v 0x01 a b = inttoqOp a := by
  rw [specExec, if_pos rfl]

theorem specExec_qtoint : specExec v 0x02 a b = qtointOp a := by
  rw [specExec, if_neg (by decide), if_pos rfl]

theorem specExec_qtointl : specExec v 0x03 a b = qtointlOp a := by
  rw [specExec, if_neg (by decide), if_neg (by decide), if_pos rfl]

theorem specExec_qfloor : specExec v 0x04 a b = qfloorOp a := by
  rw [specExec, if_neg (by decide), if_neg (by decide), if_neg (by decide), if_pos rfl]

theorem specExec_qceil : specExec v 0x05 a b = qceilOp a := by
  rw [specExec, if_neg (by decide), if_neg (by decide), if_neg (by decide), if_neg (by decide), if_pos rfl]

theorem specExec_qadd : specExec v 0x06 a b = qaddOp a b := by
  rw [specExec, if_neg (by decide), if_neg (by decide), if_neg (by decide), if_neg (by decide), if_neg (by decide), if_pos rfl]

theorem specExec_qsub : specExec v 0x07 a b = qsubOp a b := by
  rw [specExec, if_neg (by decide), if_neg (by decide), if_neg (by decide), if_neg (by decide), if_neg (by decide), if_neg (by decide), if_pos rfl]

theorem specExec_qmul : specExec v 0x08 a b = qmulOp a b := by
  rw [specExec, if_neg (by decide), if_neg (by decide), if_neg (by decide), if_neg (by decide), if_neg (by decide), if_neg (by decide), if_neg (by decide), if_pos rfl]

theorem specExec_qdiv : specExec v 0x09 a b = qdivOp a b := by
  rw [specExec, if_neg (by decide), if_neg (by decide), if_neg (by decide), if_neg (by decide), if_neg (by decide), if_neg (by decide), if_neg (by decide), if_neg (by decide), if_pos rfl]

theorem specExec_qpow : specExec v 0x0A a b = qpowOp v a b := by
  rw [specExec, if_neg (by decide), if_neg (by decide), if_neg (by decide), if_neg (by decide), if_neg (by decide), if_neg (by decide), if_neg (by decide), if_neg (by decide), if_neg (by decide), if_pos rfl]

/-- An OP value is reserved or one of the ten of the table (R55, R57). -/
theorem reserved_or_assigned (op : Opcode) :
    reservedOpcode op ∨ op = 0x01 ∨ op = 0x02 ∨ op = 0x03 ∨ op = 0x04 ∨ op = 0x05 ∨ op = 0x06 ∨ op = 0x07 ∨
      op = 0x08 ∨ op = 0x09 ∨ op = 0x0A := by
  unfold reservedOpcode
  revert op
  decide

/-- A reserved OP value is none of the ten. -/
theorem ne_of_reserved (op : Opcode) (h : reservedOpcode op) :
    op ≠ 0x01 ∧ op ≠ 0x02 ∧ op ≠ 0x03 ∧ op ≠ 0x04 ∧ op ≠ 0x05 ∧ op ≠ 0x06 ∧ op ≠ 0x07 ∧ op ≠ 0x08 ∧ op ≠ 0x09 ∧
      op ≠ 0x0A := by
  unfold reservedOpcode at h
  revert h
  revert op
  decide

theorem specExec_reserved (op : Opcode) (h : reservedOpcode op) : specExec v op a b = raise .illegalOpcode := by
  obtain ⟨h1, h2, h3, h4, h5, h6, h7, h8, h9, h10⟩ := ne_of_reserved op h
  rw [specExec, if_neg h1, if_neg h2, if_neg h3, if_neg h4, if_neg h5, if_neg h6, if_neg h7, if_neg h8, if_neg h9,
    if_neg h10]

/-- EXEC's result is 0 whenever its status is not OK (R144). -/
theorem specExec_precise (op : Opcode) : (specExec v op a b).Precise := by
  rcases reserved_or_assigned op with h | rfl | rfl | rfl | rfl | rfl | rfl | rfl | rfl | rfl | rfl
  · rw [specExec_reserved v a b op h]
    exact raise_precise _
  · rw [specExec_inttoq]
    exact inttoqOp_precise a
  · rw [specExec_qtoint]
    exact qtointOp_precise a
  · rw [specExec_qtointl]
    exact succeed_precise _
  · rw [specExec_qfloor]
    exact succeed_precise _
  · rw [specExec_qceil]
    exact qceilOp_precise a
  · rw [specExec_qadd]
    exact qaddOp_precise a b
  · rw [specExec_qsub]
    exact qsubOp_precise a b
  · rw [specExec_qmul]
    exact qmulOp_precise a b
  · rw [specExec_qdiv]
    exact qdivOp_precise a b
  · rw [specExec_qpow]
    exact qpowOp_precise v a b

end Sys2Proof.Safety
end

