-- ==== Sys2Proof/Laws/WellFormed.lean ====
section
/-! SUPPORT. The check of a raw request accepts exactly the well-formed ones, and then nothing is cut off. -/

namespace Sys2Proof.Laws

theorem check_ok_iff (r : Request) : r.check = .ok () ↔ r.wellFormed = true := by
  obtain ⟨op, a, b⟩ := r
  simp only [Request.check, Request.wellFormed, Bool.and_eq_true, decide_eq_true_eq]
  split
  · simp; omega
  · split
    · simp; omega
    · split
      · simp; omega
      · simp; omega

/-- The command of a well-formed request carries its three numbers. -/
theorem command_of_wellFormed (r : Request) (h : r.wellFormed = true) :
    r.command.op.toNat = r.op ∧ r.command.a.toNat = r.a ∧ r.command.b.toNat = r.b := by
  obtain ⟨op, a, b⟩ := r
  simp only [Request.wellFormed, Bool.and_eq_true, decide_eq_true_eq] at h
  have hm : maxUq = 2 ^ 192 - 1 := rfl
  simp only [Request.command, BitVec.toNat_ofNat]
  omega

end Sys2Proof.Laws
end

