-- ==== Sys2Proof/Tests/Slice0.lean ====
section
/-! SUPPORT. Small tests. Every expected value is from the spec: `95_test_vectors.md` (named V-*, E*, P*) or a rule. A
`witness_` theorem shows operands and a state that meet the hypotheses of the obligation it is named after, one for each
clause, at the boundary of the clause. -/

namespace Sys2Proof.Tests

open Sys2Proof.Machine Sys2Proof.Safety

/-! Helpers. -/

def word (n : Nat) : Word := BitVec.ofNat 192 n

/-- A state with a command in flight. -/
def inFlight (op : Opcode) (a b : Word) : State := State.reset.load ⟨op, a, b⟩

/-- The reset state with a command on the request port. -/
def requesting (op : Opcode) (a b : Word) : State := State.reset.present ⟨op, a, b⟩

/-- The reset state of a build with RTL_UNGUARDED. -/
def unguarded : State := { State.reset with cfg := ⟨.rtlUnguarded⟩ }

/-- The state with its scheduler holding the command. -/
def stalled (s : State) : State := { s with now := { s.now with stall := true } }

/-- The outcome is COMPLETE with this response (STS, RES, BUSY, DONE). -/
def completes (o : Host.Outcome State Fault Refusal) (sts : StatusWord) (res : Word) : Bool :=
  match o with
  | .next t => t.sts == sts && t.res == res && !t.busy && t.done
  | _ => false

/-- The outcome is this (BUSY, DONE, STS, RES), as `95_test_vectors.md` section 3 writes states. -/
def reaches (o : Host.Outcome State Fault Refusal) (busy done : Bool) (sts : StatusWord) (res : Word) : Bool :=
  match o with
  | .next t => t.busy == busy && t.done == done && t.sts == sts && t.res == res
  | _ => false

/-- The outcome is exactly this next state. -/
def isNext (o : Host.Outcome State Fault Refusal) (t : State) : Bool :=
  match o with
  | .next u => decide (u = t)
  | _ => false

theorem next_of_isNext {o : Host.Outcome State Fault Refusal} {t : State} (h : isNext o t = true) : o = .next t := by
  cases o with
  | next u => exact congrArg _ (of_decide_eq_true h)
  | fault r => cases h
  | refused r => cases h

/-! Well-formedness: each check refuses an ill-formed request. -/

theorem test_opcode_too_wide : (⟨0x100, 0, 0⟩ : Request).check = .error .opcodeTooWide := by decide
theorem test_operandA_too_wide : (⟨6, 2 ^ 192, 0⟩ : Request).check = .error .operandATooWide := by decide
theorem test_operandB_too_wide : (⟨6, 0, 2 ^ 192⟩ : Request).check = .error .operandBTooWide := by decide
theorem test_largest_request : (⟨0xFF, 2 ^ 192 - 1, 2 ^ 192 - 1⟩ : Request).wellFormed = true := by decide

/-! Decoding: words of the listings (P1 to P3) or written out from R51 and R55. -/

theorem test_decode_inttoq : decodeTableWord 392 0x3E801 = some (.inttoq 1000 0) := by decide
theorem test_decode_qtoint : decodeTableWord 392 0x4000000000000000002 = some (.qtoint (word 0x40000000000000000) 0) := by
  decide
theorem test_decode_qtointl :
    decodeTableWord 392 0x65CE50642AF3C98BD2803 = some (.qtointl (word 0x65CE50642AF3C98BD28) 0) := by decide
theorem test_decode_qfloor : decodeTableWord 392 0x7000000000000000004 = some (.qfloor (word 0x70000000000000000) 0) := by
  decide
theorem test_decode_qceil : decodeTableWord 392 0x3C00000000000000005 = some (.qceil (word 0x3C000000000000000) 0) := by
  decide
theorem test_decode_qadd :
    decodeTableWord 392 0x2400000000000000000000000000000000000000000000001800000000000000006 =
      some (.qadd (word 0x18000000000000000) (word 0x24000000000000000)) := by decide
theorem test_decode_qsub :
    decodeTableWord 392 0x3000000000000000000000000000000000000000000000005000000000000000007 =
      some (.qsub (word 0x50000000000000000) (word 0x30000000000000000)) := by decide
theorem test_decode_qmul :
    decodeTableWord 392 0x3E8000000000000000000000000000000000000000000000001A0FF3CFEA3A5044908 =
      some (.qmul (word 0x1A0FF3CFEA3A50449) (word 0x3E80000000000000000)) := by decide
theorem test_decode_qdiv : decodeTableWord 392 0x5000000000000000009 = some (.qdiv (word 0x50000000000000000) 0) := by
  decide
theorem test_decode_qpow :
    decodeTableWord 392 0xA000000000000000000000000000000010CCCCCCCCCCCCCCC0A =
      some (.qpow (word 0x10CCCCCCCCCCCCCCC) 10) := by decide
theorem test_decode_reserved_low : decodeTableWord 392 0x00 = none := by decide
theorem test_decode_reserved_high : decodeTableWord 392 0x500000000000000000B = none := by decide
theorem test_decode_short_word : decodeTableWord 8 0x06 = some (.qadd 0 0) := by decide
theorem test_table_rows_disjoint : opcodeTable.Pairwise fun r q => r.value &&& q.mask ≠ q.value := by decide

/-! The meanings, at most two vectors each (95 section 2). -/

/-- V-C4. -/
theorem test_inttoq_largest :
    completes (exec (.inttoq (word 0xFFFFFFFFFFFFFFFFFFFFFFFFFFFFFFFF) 0) State.reset) 0
      (word 0xFFFFFFFFFFFFFFFFFFFFFFFFFFFFFFFF0000000000000000) = true := by decide
/-- V-C5. -/
theorem test_inttoq_overflow :
    completes (exec (.inttoq (word 0x100000000000000000000000000000000) 0) State.reset) 1 0 = true := by decide
/-- V-C9. -/
theorem test_qtoint_integral :
    completes (exec (.qtoint (word 0x7B0000000000000000) 0) State.reset) 0 0x7B = true := by decide
/-- V-C11. -/
theorem test_qtoint_fraction :
    completes (exec (.qtoint (word 0xC58793DD97F62B6AE) 0) State.reset) 2 0 = true := by decide
/-- V-C14. -/
theorem test_qtointl : completes (exec (.qtointl (word 0xC58793DD97F62B6AE) 0) State.reset) 0 0xC = true := by decide
/-- V-C30: B is ignored. -/
theorem test_qfloor :
    completes (exec (.qfloor (word 0xC58793DD97F62B6AE) (word (2 ^ 192 - 1))) State.reset) 0
      (word 0xC0000000000000000) = true := by decide
/-- V-C24. -/
theorem test_qceil :
    completes (exec (.qceil (word 0xC58793DD97F62B6AE) 0) State.reset) 0 (word 0xD0000000000000000) = true := by decide
/-- V-C27. -/
theorem test_qceil_overflow :
    completes (exec (.qceil (word 0xFFFFFFFFFFFFFFFFFFFFFFFFFFFFFFFF0000000000000001) 0) State.reset) 8 0 = true := by
  decide
/-- V-A7. -/
theorem test_qadd_largest :
    completes (exec (.qadd (word (2 ^ 191)) (word (2 ^ 191 - 1))) State.reset) 0 (word (2 ^ 192 - 1)) = true := by decide
/-- V-A6. -/
theorem test_qadd_overflow :
    completes (exec (.qadd (word (2 ^ 191)) (word (2 ^ 191))) State.reset) 3 0 = true := by decide
/-- V-A15. -/
theorem test_qsub :
    completes (exec (.qsub (word 0x30000000000000000) (word 0x4000000000000000)) State.reset) 0
      (word 0x2C000000000000000) = true := by decide
/-- V-A13. -/
theorem test_qsub_underflow :
    completes (exec (.qsub (word 0x10000000000000000) (word 0x10000000000000001)) State.reset) 4 0 = true := by decide
/-- V-M7. -/
theorem test_qmul_truncates :
    completes (exec (.qmul (word 0xFFFFFFFFFFFFFFFF) (word 0xFFFFFFFFFFFFFFFF)) State.reset) 0
      (word 0xFFFFFFFFFFFFFFFE) = true := by decide
/-- V-M10. -/
theorem test_qmul_overflow :
    completes (exec (.qmul (word (2 ^ 128)) (word (2 ^ 128))) State.reset) 5 0 = true := by decide
/-- V-D15. -/
theorem test_qdiv :
    completes (exec (.qdiv (word 0x7B74BC6A7EF9DB22D0) (word 0xC9FBE76C8B439581)) State.reset) 0
      (word 0x9C78B31A4807C97D94) = true := by decide
/-- V-D1. -/
theorem test_qdiv_zero_by_zero : completes (exec (.qdiv 0 0) State.reset) 6 0 = true := by decide
/-- V-P14. -/
theorem test_qpow :
    completes (exec (.qpow (word 0x1000000648092747C) 56789100) State.reset) 0 (word 0x3C6D95A846D64847F) = true := by
  decide
/-- V-P5 under RTL_UNGUARDED. -/
theorem test_qpow_unguarded :
    completes (exec (.qpow (word (2 ^ 192 - 1)) 1) unguarded) 9 0 = true := by decide
/-- The call counts of V-P14 (95 section 2.5). -/
theorem test_qpow_calls : powCalls .rtlGuarded (word 0x1000000648092747C) 56789100 = (11, 25) := by decide
/-- QPOW (ONE - 1), 2 = 2^64 - 2 is below the exact (1 - 2^-64)^2, by less than one unit (R101, R124). -/
theorem test_oracle_tolerance : powWithin 1 (2 ^ 64 - 1) 2 (2 ^ 64 - 2) ∧ ¬ powWithin 0 (2 ^ 64 - 1) 2 (2 ^ 64 - 2) := by
  unfold powWithin
  decide

/-! The events, one step each (V-S1 to V-S7, V-X2). -/

theorem test_accept : reaches (step (requesting 0x06 (word one) (word one))) true false 0 0 = true := by decide
theorem test_complete :
    reaches (step (inFlight 0x06 (word one) (word one))) false true 0 (word 0x20000000000000000) = true := by decide
theorem test_accept_keeps_stale_result :
    reaches (step { requesting 0x07 0 1 with done := true, res := word 0x20000000000000000 }) true false 0
      (word 0x20000000000000000) = true := by decide
theorem test_complete_failure : reaches (step (inFlight 0x07 0 1)) false true 4 0 = true := by decide
theorem test_reset_abandons :
    isNext (step { inFlight 0x07 0 1 with now := { Drive.idle with rst := true }, res := 5 }) State.reset = true := by
  decide
theorem test_reserved_opcode : reaches (step (inFlight 0x0B (word one) 0)) false true 15 0 = true := by decide
theorem test_fetched_word : completes (step (State.reset.withFetchWord 392 0x3E801)) 0 (word 0x3E80000000000000000) = true := by
  decide

/-! The host's side (R59, R60, P1, P3). -/

theorem test_assemble_command :
    assemble "        QADD   q(1.5), q(2.25)        ; 3.75".toList =
      .ok ⟨none, .command 0x06 (.fraction 15 1) (.fraction 225 2)⟩ := by decide
theorem test_assemble_unary :
    assemble "fail: qceil @RES".toList = .ok ⟨some ['f', 'a', 'i', 'l'], .command 0x05 .res (.literal 0)⟩ := by decide
theorem test_assemble_raw :
    assemble ".cmd   0x0B, q(5), 0".toList = .ok ⟨none, .command 0x0B (.fraction 5 0) (.literal 0)⟩ := by decide
theorem test_assemble_rejects :
    assemble "INTTOQ 6277101735386680763835789423207666416102355444464034512896".toList = .error .operandTooWide := by
  decide
/-- q(12.3456) of the table of useful raw values. -/
theorem test_encode_fraction : encodeFraction 123456 4 = 0xC58793DD97F62B6AE := by decide
/-- At reset no response is present, so `@RES` is refused (93 section 2). -/
theorem test_fraction_needs_digits :
    readDecimal ['.', '5'] = none ∧ readDecimal ['5', '.'] = none ∧ readDecimal ['5'] = some (5, 0) ∧
    readDecimal ['2', '.', '2', '5'] = some (225, 2) := by decide
theorem test_stale_operand : (ScriptHost.start []).operandWord .res = .error .staleResponse := by decide

/-! Witnesses of the obligations' hypotheses. -/

theorem witness_EncodeInvertsDecode : decodeWord 0x3E801#392 = .ok (.inttoq 1000 0) := by decide

theorem witness_InttoqScalesOrOverflows_fits : (word (2 ^ 128 - 1)).toNat ≤ 2 ^ 128 - 1 := by decide
theorem witness_InttoqScalesOrOverflows_overflows : 2 ^ 128 - 1 < (word (2 ^ 128)).toNat := by decide
theorem witness_InttoqThenQtointGivesBack_fits : (word (2 ^ 128 - 1)).toNat ≤ 2 ^ 128 - 1 := by decide
theorem witness_InttoqThenQtointGivesBack_overflows : 2 ^ 128 - 1 < (word (2 ^ 128)).toNat := by decide
theorem witness_QtointConvertsIntegralOnly_integral : (word (2 ^ 192 - 2 ^ 64)).toNat % 2 ^ 64 = 0 := by decide
theorem witness_QtointConvertsIntegralOnly_fraction : (word (2 ^ 192 - 2 ^ 64 + 1)).toNat % 2 ^ 64 ≠ 0 := by decide
theorem witness_FractionFailsQtointNotQtointl : (word 1).toNat % 2 ^ 64 ≠ 0 := by decide
theorem witness_QceilRoundsUpOrOverflows_integral : (word (2 ^ 192 - 2 ^ 64)).toNat % 2 ^ 64 = 0 := by decide
theorem witness_QceilRoundsUpOrOverflows_rounds :
    (word (2 ^ 192 - 2 ^ 64 - 1)).toNat % 2 ^ 64 ≠ 0 ∧ (word (2 ^ 192 - 2 ^ 64 - 1)).toNat / 2 ^ 64 < 2 ^ 128 - 1 := by
  decide
theorem witness_QceilRoundsUpOrOverflows_overflows :
    (word (2 ^ 192 - 2 ^ 64 + 1)).toNat % 2 ^ 64 ≠ 0 ∧ (word (2 ^ 192 - 2 ^ 64 + 1)).toNat / 2 ^ 64 = 2 ^ 128 - 1 := by
  decide
theorem witness_FloorAndCeilingEncloseValue :
    exec (.qceil 1 0) State.reset = .next { State.reset with res := word one, done := true } ∧
    ({ State.reset with res := word one, done := true } : State).sts = 0 := ⟨next_of_isNext (by decide), by decide⟩
theorem witness_QaddSumsOrOverflows_fits : (word (2 ^ 191)).toNat + (word (2 ^ 191 - 1)).toNat ≤ 2 ^ 192 - 1 := by decide
theorem witness_QaddSumsOrOverflows_overflows : 2 ^ 192 ≤ (word (2 ^ 191)).toNat + (word (2 ^ 191)).toNat := by decide
theorem witness_QsubSubtractsOrUnderflows_fits : (word 5).toNat ≤ (word 5).toNat := by decide
theorem witness_QsubSubtractsOrUnderflows_underflows : (word 0).toNat < (word 1).toNat := by decide
theorem witness_QaddUndoesQsub : completes (exec (.qsub (word (2 ^ 192 - 1)) (word (2 ^ 192 - 1))) State.reset) 0 0 = true := by
  decide
theorem witness_QmulRescalesOrOverflows_fits : (word (2 ^ 128)).toNat * (word (2 ^ 128 - 1)).toNat < 2 ^ 256 := by decide
theorem witness_QmulRescalesOrOverflows_overflows : 2 ^ 256 ≤ (word (2 ^ 128)).toNat * (word (2 ^ 128)).toNat := by decide
theorem witness_QmulTruncatesTowardZero :
    exec (.qmul (word (2 ^ 32)) (word (2 ^ 32))) State.reset = .next { State.reset with res := 1, done := true } ∧
    ({ State.reset with res := 1, done := true } : State).sts = 0 := ⟨next_of_isNext (by decide), by decide⟩
theorem witness_QmulTruncatesTowardZero_loses :
    (word 3).toNat * (word (2 ^ 63)).toNat < 2 ^ 256 ∧ (word 3).toNat * (word (2 ^ 63)).toNat % 2 ^ 64 ≠ 0 := by decide
theorem witness_QmulTruncatesTowardZero_loses_most :
    (word (2 ^ 128 + 1)).toNat * (word (2 ^ 128 - 1)).toNat < 2 ^ 256 ∧
    (word (2 ^ 128 + 1)).toNat * (word (2 ^ 128 - 1)).toNat % 2 ^ 64 ≠ 0 := by decide
theorem witness_QdivDividesOrFails_zero : (word 0).toNat = 0 := by decide
theorem witness_QdivDividesOrFails_overflows :
    (word 1).toNat ≠ 0 ∧ 2 ^ 192 - 1 < (word (2 ^ 128)).toNat * 2 ^ 64 / (word 1).toNat := by decide
theorem witness_QdivDividesOrFails_fits :
    (word 1).toNat ≠ 0 ∧ (word (2 ^ 128 - 1)).toNat * 2 ^ 64 / (word 1).toNat ≤ 2 ^ 192 - 1 := by decide
theorem witness_QdivOverflowBoundary_below_one :
    (word (2 ^ 64 - 1)).toNat ≠ 0 ∧ (word (2 ^ 192 - 1)).toNat = 2 ^ 192 - 1 := by decide
theorem witness_QdivOverflowBoundary_at_one :
    (word (2 ^ 64)).toNat ≠ 0 ∧ (word (2 ^ 192 - 1)).toNat = 2 ^ 192 - 1 := by decide
theorem witness_QdivTruncatesTowardZero :
    exec (.qdiv 1 (word (2 ^ 192 - 1))) State.reset = .next { State.reset with res := 0, done := true } ∧
    ({ State.reset with res := 0, done := true } : State).sts = 0 := ⟨next_of_isNext (by decide), by decide⟩

theorem witness_QpowFollowsSchedule_fits :
    PowFits State.reset.cfg.powVariant (word (2 ^ 192 - 1)).toNat (word 1).toNat := by unfold PowFits; decide
theorem witness_QpowFollowsSchedule_overflows :
    ¬ PowFits State.reset.cfg.powVariant (word (2 ^ 192 - 1)).toNat (word 2).toNat := by unfold PowFits; decide
theorem witness_QpowFollowsSchedule_fits_unguarded :
    PowFits unguarded.cfg.powVariant (word (2 ^ 128 - 1)).toNat (word 1).toNat := by unfold PowFits; decide
theorem witness_QpowFollowsSchedule_overflows_unguarded :
    ¬ PowFits unguarded.cfg.powVariant (word (2 ^ 128)).toNat (word 1).toNat := by unfold PowFits; decide
theorem witness_QpowCallCounts_ok : powRun .rtlGuarded (word (2 ^ 65)) 3 = .ok ⟨word (2 ^ 67) |>.toNat, 2 ^ 66, 0, 2, 1⟩ := by
  decide
theorem witness_QpowCallCounts_ok_unguarded :
    powRun .rtlUnguarded (word (2 ^ 65)) 3 = .ok ⟨2 ^ 67, 2 ^ 68, 0, 2, 2⟩ := by decide
theorem witness_QpowCallCounts_overflow :
    powRun .rtlGuarded (word (2 ^ 192 - 1)) 2 = .error ⟨2 ^ 64, 2 ^ 192 - 1, 1, 0, 1⟩ := by decide
theorem witness_QpowCallCounts_overflow_unguarded :
    powRun .rtlUnguarded (word (2 ^ 192 - 1)) 1 = .error ⟨2 ^ 192 - 1, 2 ^ 192 - 1, 0, 1, 1⟩ := by decide
theorem witness_QpowNeverAboveExactPower :
    exec (.qpow (word (2 ^ 63)) 65) State.reset = .next { State.reset with res := 0, done := true } ∧
    ({ State.reset with res := 0, done := true } : State).sts = 0 := ⟨next_of_isNext (by decide), by decide⟩
theorem witness_QpowIdentities_guarded : State.reset.cfg.powVariant = .rtlGuarded := by decide
theorem witness_QpowIdentities_exponent : 1 ≤ (word 1).toNat := by decide
theorem witness_QpowIdentities_unguarded : unguarded.cfg.powVariant = .rtlUnguarded := by decide
theorem witness_QpowIsBounded : ∃ w, powRun .rtlUnguarded (word one) (word 7) = .ok w := ⟨⟨one, one, 0, 3, 3⟩, by decide⟩

theorem witness_StatusCodesAreDistinct : Status.illegalOpcode.code = Status.illegalOpcode.code := by decide
theorem witness_IgnoredOperandHasNoEffect_first :
    0x01 ≤ (0x01 : Opcode).toNat ∧ (0x01 : Opcode).toNat ≤ 0x05 ∧
    readCommand 0x01 [['7']] = .ok (.command 0x01 (.literal 7) (.literal 0)) := by decide
theorem witness_IgnoredOperandHasNoEffect_last :
    0x01 ≤ (0x05 : Opcode).toNat ∧ (0x05 : Opcode).toNat ≤ 0x05 ∧
    readCommand 0x05 [['@', 'R', 'E', 'S']] = .ok (.command 0x05 .res (.literal 0)) := by decide

theorem witness_AcceptLatchesCommand_accept :
    (requesting 0x06 1 2).sts.toNat ≤ 9 ∧ (requesting 0x06 1 2).now.rst = false ∧
    (requesting 0x06 1 2).now.reqValid = true ∧ (requesting 0x06 1 2).busy = false := by decide
theorem witness_AcceptLatchesCommand_after_illegal :
    ({ requesting 0x06 1 2 with sts := 15 } : State).sts.toNat = 15 ∧ (requesting 0x06 1 2).busy = false := by decide
theorem witness_AcceptLatchesCommand_busy :
    (stalled (inFlight 0x06 1 2)).sts.toNat ≤ 9 ∧ (stalled (inFlight 0x06 1 2)).now.rst = false ∧
    (stalled (inFlight 0x06 1 2)).busy = true ∧ (stalled (inFlight 0x06 1 2)).now.stall = true := by decide
/-- A command in flight, and another one on the port at this step and at the next. -/
def heldRequest : State :=
  { (inFlight 0x07 5 3).present ⟨0x06, 1, 2⟩ with later := [⟨false, true, 0x06, 1, 2, false⟩] }

theorem witness_AcceptLatchesCommand_held :
    heldRequest.sts.toNat ≤ 9 ∧ heldRequest.now.rst = false ∧ heldRequest.busy = true ∧ heldRequest.now.stall = false ∧
    heldRequest.now.reqValid = true ∧ heldRequest.advance.now.reqValid = true ∧
    heldRequest.advance.requested = heldRequest.requested ∧ heldRequest.advance.now.rst = false := by decide
theorem witness_CompleteAppliesExec_complete :
    (inFlight 0x07 0 1).sts.toNat ≤ 9 ∧ (inFlight 0x07 0 1).busy = true ∧ (inFlight 0x07 0 1).now.rst = false ∧
    (inFlight 0x07 0 1).now.stall = false ∧ (specExec .rtlGuarded 0x07 0 1).status.code ≠ 0 := by decide
theorem witness_CompleteAppliesExec_wait :
    (stalled (inFlight 0x07 0 1)).sts.toNat ≤ 9 ∧ (stalled (inFlight 0x07 0 1)).busy = true ∧
    (stalled (inFlight 0x07 0 1)).now.rst = false ∧ (stalled (inFlight 0x07 0 1)).now.stall = true := by decide
theorem witness_StepRunsDecodedInstruction :
    (inFlight 0x0A 3 4).sts.toNat ≤ 9 ∧ (inFlight 0x0A 3 4).busy = true ∧ (inFlight 0x0A 3 4).now.rst = false ∧
    (inFlight 0x0A 3 4).now.stall = false ∧
    decode ⟨(inFlight 0x0A 3 4).opl, (inFlight 0x0A 3 4).al, (inFlight 0x0A 3 4).bl⟩ = .ok (.qpow 3 4) := by decide
theorem witness_ReservedOpcodeCompletesIllegal_accept_zero :
    (requesting 0x00 1 2).sts.toNat ≤ 9 ∧ (requesting 0x00 1 2).now.rst = false ∧ (requesting 0x00 1 2).busy = false ∧
    (requesting 0x00 1 2).now.reqValid = true ∧ (requesting 0x00 1 2).now.reqOp = 0x00 := by decide
theorem witness_ReservedOpcodeCompletesIllegal_accept_high :
    (requesting 0x0B 1 2).sts.toNat ≤ 9 ∧ (requesting 0x0B 1 2).now.rst = false ∧ (requesting 0x0B 1 2).busy = false ∧
    (requesting 0x0B 1 2).now.reqValid = true ∧ 0x0B ≤ (requesting 0x0B 1 2).now.reqOp.toNat := by decide
theorem witness_ReservedOpcodeCompletesIllegal_complete_zero :
    (inFlight 0x00 1 2).sts.toNat ≤ 9 ∧ (inFlight 0x00 1 2).now.rst = false ∧ (inFlight 0x00 1 2).busy = true ∧
    (inFlight 0x00 1 2).now.stall = false ∧ (inFlight 0x00 1 2).opl = 0x00 := by decide
theorem witness_ReservedOpcodeCompletesIllegal_complete_high :
    (inFlight 0x0B 1 2).sts.toNat ≤ 9 ∧ (inFlight 0x0B 1 2).now.rst = false ∧ (inFlight 0x0B 1 2).busy = true ∧
    (inFlight 0x0B 1 2).now.stall = false ∧ 0x0B ≤ (inFlight 0x0B 1 2).opl.toNat := by decide
theorem witness_ResetClearsRegisters :
    ({ inFlight 0x07 0 1 with now := { Drive.idle with rst := true } } : State).now.rst = true := by decide
theorem witness_RequestPortCannotDisturbCommand : (inFlight 0x06 1 2).busy = true := by decide
theorem witness_RegistersChangeOnlyByEvents_idle :
    step { State.reset with res := 7, done := true } = .next { State.reset with res := 7, done := true } ∧
    State.reset.now.rst = false ∧ State.reset.busy = false ∧ State.reset.now.reqValid = false :=
  ⟨next_of_isNext (by decide), by decide⟩
theorem witness_RegistersChangeOnlyByEvents_accept :
    reaches (step (requesting 0x06 1 2)) true false 0 0 = true ∧ (requesting 0x06 1 2).now.rst = false ∧
    ((requesting 0x06 1 2).busy = true → (requesting 0x06 1 2).now.stall = true) := by decide
theorem witness_RegistersChangeOnlyByEvents_busy :
    completes (step (inFlight 0x06 1 2)) 0 3 = true ∧ (inFlight 0x06 1 2).now.rst = false ∧
    (inFlight 0x06 1 2).busy = true := by decide
theorem witness_BuildIsNeverWritten : step unguarded = .next unguarded := next_of_isNext (by decide)

/-- A state with the invariants and a command in flight. -/
theorem inFlight_inv (op : Opcode) (a b : Word) : Inv (inFlight op a b) :=
  ⟨by simp [inFlight], by simp [inFlight, State.reset], by simp [inFlight, State.reset],
    by simp [inFlight, State.reset], by simp [inFlight]⟩

theorem witness_StepKeepsInvariants :
    Inv (inFlight 0x06 1 2) ∧ completes (step (inFlight 0x06 1 2)) 0 3 = true := ⟨inFlight_inv _ _ _, by decide⟩
theorem witness_InvariantsHoldWhereverReached :
    Sys2Proof.core.run 0 { State.reset with now := .idle, later := [], cfg := .standard } = .next State.reset := rfl
theorem witness_StepKeepsUntouched :
    Untouched unguarded ∧ step unguarded = .next unguarded :=
  ⟨fun _ => ⟨rfl, rfl, rfl, rfl, rfl⟩, next_of_isNext (by decide)⟩
theorem witness_GoodStateStepsOn : Inv (inFlight 0x0B 1 2) := inFlight_inv _ _ _
theorem witness_OnlyReservedStatusFaults_low :
    step { State.reset with sts := 10 } = .fault .reservedStatus ∧ 10 ≤ (10 : StatusWord).toNat := ⟨rfl, by decide⟩
theorem witness_OnlyReservedStatusFaults_high :
    step { State.reset with sts := 14 } = .fault .reservedStatus ∧ (14 : StatusWord).toNat ≤ 14 := ⟨rfl, by decide⟩
theorem witness_EveryCommandCompletes :
    (stalled (inFlight 0x06 1 2)).sts.toNat ≤ 9 ∧ (stalled (inFlight 0x06 1 2)).busy = true ∧
    NoReset (stalled (inFlight 0x06 1 2)) := ⟨by decide, by decide, by decide, by simp [stalled, inFlight, State.reset]⟩
theorem witness_ResponseIndependentOfHistory :
    (requesting 0x06 1 2).sts.toNat ≤ 9 ∧ ({ requesting 0x06 1 2 with sts := 15, done := true } : State).sts.toNat = 15 ∧
    (requesting 0x06 1 2).busy = false ∧ (requesting 0x06 1 2).now.rst = false ∧
    (requesting 0x06 1 2).now.reqValid = true ∧ (requesting 0x06 1 2).advance.now.rst = false ∧
    (requesting 0x06 1 2).advance.now.stall = false := by decide
theorem witness_HostReadsOnlyPresentResponses :
    ({ State.reset with done := true } : State).readResponse = .ok (0, 0) ∧
    State.reset.readResponse = .error .staleResponse := by decide
theorem witness_AssemblerNumbers_fits : portWord (2 ^ 192 - 1) = .ok (word (2 ^ 192 - 1)) := by decide
theorem witness_AssemblerNumbers_rejects : portWord (2 ^ 192) = .error .operandTooWide := by decide
/-- A host at its first line, a QADD 1, 2, whose core is the given one. -/
def addHost (p : Phase) (s : State) : ScriptHost :=
  ⟨[⟨none, .command 0x06 (.literal 1) (.literal 2)⟩], 0, [], p, s⟩

theorem witness_CommandLineBlocksUntilResponse_presents :
    (addHost (.presenting ⟨0x06, 1, 2⟩) (stalled (inFlight 0x07 5 3))).phase = .presenting ⟨0x06, 1, 2⟩ ∧
    (stalled (inFlight 0x07 5 3)).sts.toNat ≤ 9 ∧ (stalled (inFlight 0x07 5 3)).busy = true := by decide
theorem witness_CommandLineBlocksUntilResponse_accepted :
    (addHost (.presenting ⟨0x06, 1, 2⟩) State.reset).phase = .presenting ⟨0x06, 1, 2⟩ ∧
    State.reset.sts.toNat ≤ 9 ∧ State.reset.busy = false ∧ State.reset.now.rst = false := by decide
theorem witness_CommandLineBlocksUntilResponse_awaits :
    (addHost .awaiting (stalled (inFlight 0x06 1 2))).phase = .awaiting ∧
    (stalled (inFlight 0x06 1 2)).sts.toNat ≤ 9 ∧ (stalled (inFlight 0x06 1 2)).done = false := by decide
theorem witness_CommandLineBlocksUntilResponse_goes_on :
    (addHost .awaiting { State.reset with sts := 15, done := true }).phase = .awaiting ∧
    ({ State.reset with sts := 15, done := true } : State).sts.toNat = 15 ∧
    ({ State.reset with sts := 15, done := true } : State).done = true := by decide
theorem witness_CommandLineEndsWithItsResponse :
    (addHost .ready (stalled (inFlight 0x07 5 3))).phase = .ready ∧
    (addHost .ready (stalled (inFlight 0x07 5 3))).script[0]? = some ⟨none, .command 0x06 (.literal 1) (.literal 2)⟩ ∧
    (addHost .ready (stalled (inFlight 0x07 5 3))).operandWord (.literal 1) = .ok 1 ∧
    (addHost .ready (stalled (inFlight 0x07 5 3))).operandWord (.literal 2) = .ok 2 ∧
    (stalled (inFlight 0x07 5 3)).sts.toNat ≤ 9 ∧ NoReset (stalled (inFlight 0x07 5 3)) :=
  ⟨by decide, by decide, by decide, by decide, by decide, by decide, by simp [stalled, inFlight, State.reset]⟩
theorem witness_CommandLineBlocksUntilResponse :
    (ScriptHost.start [⟨none, .command 0x06 (.literal 1) (.literal 2)⟩]).phase = .ready ∧
    (ScriptHost.start [⟨none, .command 0x06 (.literal 1) (.literal 2)⟩]).operandWord (.literal 1) = .ok 1 ∧
    (ScriptHost.start [⟨none, .command 0x06 (.literal 1) (.literal 2)⟩]).operandWord (.literal 2) = .ok 2 ∧
    State.reset.sts.toNat ≤ 9 ∧ State.reset.busy = false ∧ State.reset.now.rst = false ∧ State.reset.later = [] := by
  decide

end Sys2Proof.Tests
end

/-! # Proofs for the family of `10_state.md`

The layer below the obligations: what the decoder answers, that a meaning is EXEC of its command (R56), what COMPLETE
writes (R27), and the step by its four possible effects. -/

namespace Sys2Proof.Proofs

open Sys2Proof.Machine Sys2Proof.Safety

/-! ## The decoder -/

/-- The decoder gives back the instruction a command was made from (R55). -/
@[simp] theorem decode_command (i : Instr) : decode i.command = .ok i := by
  cases i <;> rfl

theorem decode_reserved (c : Command) (h : reservedOpcode c.op) : decode c = .error (.reservedOpcode c.op) := by
  have hn : c.op.toNat = 0 ∨ 11 ≤ c.op.toNat := h.imp (congrArg BitVec.toNat) id
  unfold decode
  split
  case h_11 => rfl
  all_goals omega

/-- A command has a reserved opcode or is the command of an instruction (R55, R57). -/
theorem reserved_or_command (c : Command) : reservedOpcode c.op ∨ ∃ i : Instr, c = i.command := by
  obtain ⟨op, a, b⟩ := c
  rcases reserved_or_assigned op with h | rfl | rfl | rfl | rfl | rfl | rfl | rfl | rfl | rfl | rfl
  · exact .inl h
  · exact .inr ⟨.inttoq a b, rfl⟩
  · exact .inr ⟨.qtoint a b, rfl⟩
  · exact .inr ⟨.qtointl a b, rfl⟩
  · exact .inr ⟨.qfloor a b, rfl⟩
  · exact .inr ⟨.qceil a b, rfl⟩
  · exact .inr ⟨.qadd a b, rfl⟩
  · exact .inr ⟨.qsub a b, rfl⟩
  · exact .inr ⟨.qmul a b, rfl⟩
  · exact .inr ⟨.qdiv a b, rfl⟩
  · exact .inr ⟨.qpow a b, rfl⟩

/-! ## COMPLETE writes EXEC of the latches (R27, R56) -/

/-- Equal responses complete alike. -/
theorem next_complete_congr (s : State) {r r' : Response} (h : r' = r) :
    (.next (s.complete r) : Host.Outcome State Fault Refusal) = .next (s.complete r') := by
  rw [h]

/-- The meaning of an instruction is COMPLETE with EXEC of its opcode and operands. -/
theorem exec_eq_complete (i : Instr) (s : State) :
    exec i s = .next (s.complete (specExec s.cfg.powVariant i.opcode i.operandA i.operandB)) := by
  cases i with
  | inttoq n b => exact next_complete_congr s (specExec_inttoq _ n b)
  | qtoint x b => exact next_complete_congr s (specExec_qtoint _ x b)
  | qtointl x b => exact next_complete_congr s (specExec_qtointl _ x b)
  | qfloor x b => exact next_complete_congr s (specExec_qfloor _ x b)
  | qceil x b => exact next_complete_congr s (specExec_qceil _ x b)
  | qadd a b => exact next_complete_congr s (specExec_qadd _ a b)
  | qsub a b => exact next_complete_congr s (specExec_qsub _ a b)
  | qmul a b => exact next_complete_congr s (specExec_qmul _ a b)
  | qdiv a b => exact next_complete_congr s (specExec_qdiv _ a b)
  | qpow base e => exact next_complete_congr s (specExec_qpow _ base e)

/-- EXEC of the command in the latches. -/
def latchedResponse (s : State) : Response := specExec s.cfg.powVariant s.opl s.al s.bl

@[simp] theorem latchedResponse_advance (s : State) : latchedResponse s.advance = latchedResponse s := by
  simp [latchedResponse]

theorem latchedResponse_of_reserved (s : State) (h : reservedOpcode s.opl) :
    latchedResponse s = raise .illegalOpcode :=
  specExec_reserved _ _ _ _ h

theorem latchedResponse_of_command (s : State) (i : Instr) (h : s.latched = i.command) :
    latchedResponse s = specExec s.cfg.powVariant i.opcode i.operandA i.operandB := by
  change specExec _ s.latched.op s.latched.a s.latched.b = _
  rw [h]
  rfl

/-- A failing EXEC leaves the result 0 (R144). -/
theorem latchedResponse_result_of_failed (s : State) (h : (latchedResponse s).status.code ≠ 0) :
    (latchedResponse s).result = 0 :=
  specExec_precise _ _ _ _ fun hok => h ((Status.code_eq_zero_iff _).2 hok)

/-- The step of a COMPLETE, whatever the opcode: a reserved one included (R146). -/
theorem step_of_complete (s : State) (h : s.event = .complete) :
    step s = .next (s.advance.complete (latchedResponse s)) := by
  rcases reserved_or_command s.latched with hr | ⟨i, hi⟩
  · rw [step_of_illegal s _ h (decode_reserved s.latched hr), latchedResponse_of_reserved s hr]
    rfl
  · have hd : s.inFlight = .ok i := by rw [State.inFlight, hi, decode_command]
    rw [step_of_instr s i h hd, exec_eq_complete, latchedResponse_of_command s i hi, State.advance_cfg]

/-! ## The step by its effect -/

/-- What a step that goes on does: RESET, COMPLETE, ACCEPT, or no register changes. -/
theorem step_effects (s t : State) (h : step s = .next t) :
    (s.now.rst = true ∧ t = s.advance.resetRegisters) ∨
    (s.busy = true ∧ s.now.stall = false ∧ t = s.advance.complete (latchedResponse s)) ∨
    (s.busy = false ∧ s.now.reqValid = true ∧ t = s.advance.accept s.requested) ∨
    t = s.advance := by
  rcases step_cases s t h with hreset | ⟨hr, hl, hwait | ⟨hb, hs, _⟩ | ⟨hb, hs, _⟩ | haccept | hidle⟩
  · exact .inl hreset
  · exact .inr (.inr (.inr hwait.2.2))
  · rw [step_of_complete s (event_of_complete s hr hl hb hs)] at h
    cases h
    exact .inr (.inl ⟨hb, hs, rfl⟩)
  · rw [step_of_complete s (event_of_complete s hr hl hb hs)] at h
    cases h
    exact .inr (.inl ⟨hb, hs, rfl⟩)
  · exact .inr (.inr (.inl haccept))
  · exact .inr (.inr (.inr hidle.2.2))

/-- A legal STS is enough for a step to go on. -/
theorem stepGoesOn_of_legal (s : State) (hl : legalStatus s.sts = true) : StepGoesOn s := by
  cases hr : s.now.rst with
  | true => exact ⟨_, step_of_reset s (event_of_rst s hr)⟩
  | false =>
    cases hb : s.busy with
    | true =>
      cases hs : s.now.stall with
      | true => exact ⟨_, step_of_wait s (event_of_stall s hr hl hb hs)⟩
      | false => exact ⟨_, step_of_complete s (event_of_complete s hr hl hb hs)⟩
    | false =>
      cases hv : s.now.reqValid with
      | true => exact ⟨_, step_of_accept s (event_of_request s hr hl hb hv)⟩
      | false => exact ⟨_, step_of_idle s (event_of_idle s hr hl hb hv)⟩

/-- Time goes on past the present drive, whatever it is. -/
theorem advance_of_drive (s : State) (d : Drive) : ({ s with now := d } : State).advance = s.advance := by
  unfold State.advance
  cases s.later <;> rfl

/-- While a command is in flight, the event looks at no port but `rst`. -/
theorem event_of_busy (s : State) (hb : s.busy = true) :
    s.event = if s.now.rst then .reset else if !legalStatus s.sts then .brokenStatus
      else if s.now.stall then .wait else .complete := by
  cases hr : s.now.rst <;> simp [State.event, State.completeEnabled, hb, hr]

theorem event_cases_of_busy (s : State) (hb : s.busy = true) :
    s.event = .reset ∨ s.event = .brokenStatus ∨ s.event = .wait ∨ s.event = .complete := by
  rw [event_of_busy s hb]
  split_ifs <;> simp

/-- While a command is in flight, a drive that differs in the request port only gives the same step. -/
theorem step_of_drive_of_busy (s : State) (d : Drive) (hb : s.busy = true) (hr : d.rst = s.now.rst)
    (hs : d.stall = s.now.stall) : step { s with now := d } = step s := by
  have he : ({ s with now := d } : State).event = s.event := by
    rw [event_of_busy s hb, event_of_busy { s with now := d } hb]
    simp only [hr, hs]
  rcases event_cases_of_busy s hb with h | h | h | h
  · rw [step_of_reset s h, step_of_reset _ (he.trans h), advance_of_drive]
  · rw [step_of_broken s h, step_of_broken _ (he.trans h)]
  · rw [step_of_wait s h, step_of_wait _ (he.trans h), advance_of_drive]
  · rw [step_of_complete s h, step_of_complete _ (he.trans h), advance_of_drive]
    rfl

/-- What every step keeps holds at the end of every run. -/
theorem run_keeps (P : State → Prop) (hstep : ∀ s t : State, P s → step s = .next t → P t) :
    ∀ (k : Nat) (s t : State), P s → Sys2Proof.core.run k s = .next t → P t
  | 0, s, t, hs, h => by
    cases h
    exact hs
  | k + 1, s, t, hs, h => by
    obtain ⟨u, hu, hrun⟩ := core_run_inv k s t h
    exact run_keeps P hstep k u t (hstep s u hs hu) hrun

/-! ## The invariants of R32 under each effect -/

theorem inv_resetRegisters (s : State) : Inv s.resetRegisters where
  exclusive := by simp
  bounded := by simp
  legal := by simp
  failed := by simp
  response := by simp

theorem inv_advance (s : State) (h : Inv s) : Inv s.advance where
  exclusive := by simpa using h.exclusive
  bounded := by simpa using h.bounded
  legal := by simpa using h.legal
  failed := by simpa using h.failed
  response := by simpa using h.response

theorem inv_accept (c : Command) (s : State) (h : Inv s) : Inv (s.accept c) where
  exclusive := by simp
  bounded := h.bounded
  legal := h.legal
  failed := h.failed
  response := by simp

/-- COMPLETE with EXEC of the latches gives the invariants to any state. -/
theorem inv_complete (s : State) : Inv (s.complete (latchedResponse s)) where
  exclusive := by simp
  bounded := Nat.le_sub_one_of_lt (BitVec.isLt _)
  legal := Status.code_legal _
  failed := latchedResponse_result_of_failed s
  response := fun _ => ⟨rfl, rfl⟩

/-! ## Tier 3 -/

/-- Settles O49, by the four effects of a step. -/
theorem stepKeepsInvariants : Obligations.StepKeepsInvariants := by
  intro s t hi h
  rcases step_effects s t h with ⟨_, rfl⟩ | ⟨_, _, rfl⟩ | ⟨_, _, rfl⟩ | rfl
  · exact inv_resetRegisters _
  · exact latchedResponse_advance s ▸ inv_complete s.advance
  · exact inv_accept _ _ (inv_advance s hi)
  · exact inv_advance s hi

/-! ## Tier 2 -/

/-- Settles O41: `step_of_complete` for the COMPLETE, the wait otherwise. -/
theorem completeAppliesExec : Obligations.CompleteAppliesExec := by
  refine ⟨completeEnabled_iff, fun s hl hb hr => ?_⟩
  have hl := (legalStatus_iff s.sts).2 hl
  exact ⟨fun hs => step_of_complete s (event_of_complete s hr hl hb hs),
    fun hs => step_of_wait s (event_of_stall s hr hl hb hs), latchedResponse_result_of_failed s⟩

/-- Settles O47: each effect but RESET is guarded, and changes only its own registers. -/
theorem registersChangeOnlyByEvents : Obligations.RegistersChangeOnlyByEvents := by
  intro s t h hr
  rcases step_effects s t h with ⟨hr', _⟩ | ⟨hb, hs, rfl⟩ | ⟨hb, hv, rfl⟩ | rfl
  · simp [hr] at hr'
  · simp [hb, hs]
  · simp [hb, hv]
  · simp [registers]

/-- Settles O48: none of the four effects writes the build. -/
theorem buildIsNeverWritten : Obligations.BuildIsNeverWritten := by
  refine ⟨fun s t h => ?_, one_eq, maxUq_eq, maxConvertible_eq, by decide⟩
  rcases step_effects s t h with ⟨_, rfl⟩ | ⟨_, _, rfl⟩ | ⟨_, _, rfl⟩ | rfl <;> simp

/-- Settles O51: the reset registers have the invariants under every drive and build, and every step keeps them. -/
theorem invariantsHoldWhereverReached : Obligations.InvariantsHoldWhereverReached := by
  intro now later cfg k t h
  exact run_keeps Inv stepKeepsInvariants k _ t
    (inv_resetRegisters { State.reset with now := now, later := later, cfg := cfg }) h

/-- Settles O53: a legal STS is among the invariants. -/
theorem goodStateStepsOn : Obligations.GoodStateStepsOn := by
  intro s hi
  obtain ⟨t, ht⟩ := stepGoesOn_of_legal s ((legalStatus_iff s.sts).2 hi.legal)
  exact ⟨t, ht, stepKeepsInvariants s t hi ht⟩

/-- A command on the port of an idle core, and let go: ACCEPT, then COMPLETE with its response. -/
theorem run_accept_complete (s : State) (hl : s.sts.toNat ≤ 9 ∨ s.sts.toNat = 15) (hb : s.busy = false)
    (hr : s.now.rst = false) (hv : s.now.reqValid = true) (hr' : s.advance.now.rst = false)
    (hs' : s.advance.now.stall = false) :
    Sys2Proof.core.run 2 s = .next ((s.advance.accept s.requested).advance.complete
      (specExec s.cfg.powVariant s.now.reqOp s.now.reqA s.now.reqB)) := by
  have hl := (legalStatus_iff s.sts).2 hl
  have haccept := step_of_accept s (event_of_request s hr hl hb hv)
  have hcomplete : (s.advance.accept s.requested).event = .complete :=
    event_of_complete _ hr' (by simpa using hl) rfl hs'
  rw [core_run_succ 1 _ _ haccept, core_run_succ 0 _ _ (step_of_complete _ hcomplete), core_run_zero]
  simp [latchedResponse, State.requested]

/-- COMPLETE leaves nothing of the last response. -/
theorem complete_congr (r : Response) (s s' : State) (hopl : s'.opl = s.opl) (hal : s'.al = s.al) (hbl : s'.bl = s.bl)
    (hnow : s'.now = s.now) (hlater : s'.later = s.later) (hcfg : s'.cfg = s.cfg) : s'.complete r = s.complete r :=
  State.ext_fields _ _ rfl rfl rfl rfl hopl hal hbl hnow hlater hcfg

/-- Settles O56: both runs end in a COMPLETE of the same response on the same latches, drives and build. -/
theorem responseIndependentOfHistory : Obligations.ResponseIndependentOfHistory := by
  intro s s' hl hl' hb hb' hnow hlater hcfg hr hv hr' hs'
  have hnext : s'.advance.now = s.advance.now := State.advance_now_congr s s' hlater
  have hrest : s'.advance.later = s.advance.later := State.advance_later_congr s s' hlater
  have hrun := run_accept_complete s hl hb hr hv hr' hs'
  have hrun' := run_accept_complete s' hl' hb' (hnow ▸ hr) (hnow ▸ hv) (hnext ▸ hr') (hnext ▸ hs')
  refine ⟨_, hrun, hrun'.trans ?_, rfl⟩
  rw [hnow, hcfg]
  congr 1
  apply complete_congr
  · simp [State.requested, hnow]
  · simp [State.requested, hnow]
  · simp [State.requested, hnow]
  · exact State.advance_now_congr _ _ hrest
  · exact State.advance_later_congr _ _ hrest
  · simp [hcfg]

/-! ## Tier 1 -/

/-- Settles O40: the ACCEPT of an idle core, and the one after a COMPLETE that leaves the command on the port. -/
theorem acceptLatchesCommand : Obligations.AcceptLatchesCommand := by
  refine ⟨acceptEnabled_iff, fun s hl hr => ?_⟩
  have hl := (legalStatus_iff s.sts).2 hl
  refine ⟨fun hv hb => step_of_accept s (event_of_request s hr hl hb hv), fun hb => ⟨?_, ?_, ?_⟩⟩
  · simp [State.acceptEnabled, State.reqReady, hb]
  · exact fun hs => step_of_wait s (event_of_stall s hr hl hb hs)
  · intro hs _ hv' hreq hr'
    refine ⟨_, step_of_complete s (event_of_complete s hr hl hb hs), rfl, rfl, ?_⟩
    have hl' : legalStatus (latchedResponse s).status.code = true := (legalStatus_iff _).2 (Status.code_legal _)
    have he : (s.advance.complete (latchedResponse s)).event = .accept := event_of_request _ hr' hl' rfl hv'
    have hc : (s.advance.complete (latchedResponse s)).requested = s.requested := hreq
    rw [step_of_accept _ he, hc]
    rfl

/-- The bits of an encoded instruction are its command (R51). -/
theorem ofBits_encode (i : Instr) : Command.ofBits (encode i).toNat = i.command := Laws.unpack_pack i.command

/-- Settles O42; the encoded word in the latches decodes to the instruction. -/
theorem stepRunsDecodedInstruction : Obligations.StepRunsDecodedInstruction := by
  intro s i hl
  have hl := (legalStatus_iff s.sts).2 hl
  refine ⟨fun hb hr hs hd => step_of_instr s i (event_of_complete s hr hl hb hs) hd, ?_⟩
  rw [withFetchWord_full, ofBits_encode]
  exact step_of_instr _ i (event_load _ s hl) (by rw [inFlight_load, decode_command])

/-- Settles O45: the outputs read registers only. -/
theorem outputsFollowRegisters : Obligations.OutputsFollowRegisters :=
  fun _ _ => ⟨rfl, rfl, rfl, rfl, rfl, rfl, rfl, rfl⟩

/-- Settles O46: with BUSY = 1 the event is not ACCEPT, the only one that looks at the request port. -/
theorem requestPortCannotDisturbCommand : Obligations.RequestPortCannotDisturbCommand := by
  intro s valid op a b hb
  exact step_of_drive_of_busy s _ hb rfl rfl

/-- Settles O50: the reset state is one with its registers reset. -/
theorem resetHasInvariants : Obligations.ResetHasInvariants :=
  ⟨inv_resetRegisters State.reset, fun _ => ⟨rfl, rfl, rfl, rfl, rfl⟩⟩

end Sys2Proof.Proofs

/-! # Proofs for the family of `30_encoding.md`

The packed words and their fields (R51, R52), the decoder against the opcode table (R55, R57, R61), the numbers of the
assembler (R59), and the expansion of a command line on any schedule (R60, R168). -/

namespace Sys2Proof.Proofs

open Sys2Proof.Machine Sys2Proof.Safety

/-! ## The packed command (R51) -/

/-- The bound on a word of width m + n, with the power cut in two: Lean evaluates no power as large as 2^392. -/
theorem toNat_lt_two_pow_mul {m n w : Nat} (hw : w = m + n) (x : BitVec w) : x.toNat < 2 ^ m * 2 ^ n := by
  subst hw
  exact x.isLt.trans_eq (pow_add 2 m n)

theorem toNat_ofNat_of_lt_two_pow_mul {m n w : Nat} (hw : w = m + n) {v : Nat} (h : v < 2 ^ m * 2 ^ n) :
    (BitVec.ofNat w v).toNat = v := by
  subst hw
  rw [BitVec.toNat_ofNat, Nat.mod_eq_of_lt (h.trans_eq (pow_add 2 m n).symm)]

/-- The three fields fit CMD side by side, so nothing is cut off. -/
theorem pack_toNat (c : Command) : c.pack.toNat = c.b.toNat * 2 ^ 200 + c.a.toNat * 2 ^ 8 + c.op.toNat := by
  have ho := c.op.isLt
  have ha := c.a.isLt
  have hb := c.b.isLt
  have hfits : c.b.toNat * 2 ^ 200 + c.a.toNat * 2 ^ 8 + c.op.toNat < 2 ^ 192 * 2 ^ 200 := by omega
  exact toNat_ofNat_of_lt_two_pow_mul rfl hfits

/-- Unpacking reads the three bit fields. -/
theorem unpack_eq_extract (w : CommandWord) :
    Command.unpack w = ⟨w.extractLsb' 0 8, w.extractLsb' 8 192, w.extractLsb' 200 192⟩ := by
  simp [Command.unpack, Command.ofBits, BitVec.extractLsb', Nat.shiftRight_eq_div_pow]

/-- Every bit of a word is in one of the three fields. -/
theorem pack_unpack (w : CommandWord) : (Command.unpack w).pack = w := by
  have hw : w.toNat < 2 ^ 192 * 2 ^ 200 := toNat_lt_two_pow_mul (m := 192) (n := 200) rfl w
  apply BitVec.eq_of_toNat_eq
  rw [pack_toNat]
  simp only [Command.unpack, Command.ofBits, BitVec.toNat_ofNat]
  omega

theorem decodeWord_of_pack {c : Command} {w : CommandWord} (h : c.pack = w) : decodeWord w = decode c := by
  rw [← h, decodeWord, Laws.unpack_pack]

/-- The decoder answers an instruction for its own command only. -/
theorem decode_eq_ok_iff (c : Command) (i : Instr) : decode c = .ok i ↔ c = i.command := by
  constructor
  · intro h
    rcases reserved_or_command c with hr | ⟨j, rfl⟩
    · rw [decode_reserved c hr] at h
      cases h
    · rw [decode_command] at h
      cases h
      rfl
  · rintro rfl
    exact decode_command i

/-- A word that an instruction encodes to decodes to that instruction. -/
theorem decodeWord_of_encode {i : Instr} {w : CommandWord} (h : encode i = w) : decodeWord w = .ok i :=
  (decodeWord_of_pack h).trans (decode_command i)

/-! ## The opcode table (R55, R57, R61) -/

/-- Every row's mask is all ones, so a row matches its own value only. -/
theorem row_matches_iff (op : Opcode) (r : OpcodeRow) (h : r ∈ opcodeTable) :
    r.matches op = true ↔ op = r.value := by
  have hmask : ∀ r ∈ opcodeTable, r.mask = BitVec.allOnes 8 := by decide
  rw [OpcodeRow.matches, hmask r h, BitVec.and_allOnes, beq_iff_eq]

theorem row_value_not_reserved : ∀ r ∈ opcodeTable, ¬ reservedOpcode r.value := by
  unfold reservedOpcode
  decide

theorem rows_of_reserved (op : Opcode) (h : reservedOpcode op) : (opcodeTable.filter fun r => r.matches op) = [] := by
  refine List.filter_eq_nil_iff.2 fun r hr hm => row_value_not_reserved r hr ?_
  rwa [← (row_matches_iff op r hr).1 hm]

/-- No two rows have one value, so a row's value matches that row alone. -/
theorem rows_of_row : ∀ r ∈ opcodeTable, (opcodeTable.filter fun q => q.matches r.value) = [r] := by
  decide

/-- The opcode of every constructor stands in the table. -/
theorem exists_row_of_instr (i : Instr) : ∃ r ∈ opcodeTable, r.value = i.opcode := by
  cases i <;> simp [opcodeTable, Instr.opcode]

/-- A meaning of the table never answers ILLEGAL_OPCODE, whatever the operands. -/
theorem specExec_instr_ne_illegal (v : PowVariant) (i : Instr) :
    (specExec v i.opcode i.operandA i.operandB).status ≠ .illegalOpcode := by
  cases i with
  | inttoq n b =>
    rw [Instr.opcode, specExec_inttoq, inttoqOp]
    split <;> simp
  | qtoint x b =>
    rw [Instr.opcode, specExec_qtoint, qtointOp]
    split <;> simp
  | qtointl x b =>
    rw [Instr.opcode, specExec_qtointl, qtointlOp]
    simp
  | qfloor x b =>
    rw [Instr.opcode, specExec_qfloor, qfloorOp]
    simp
  | qceil x b =>
    rw [Instr.opcode, specExec_qceil, qceilOp]
    split_ifs <;> simp
  | qadd a b =>
    rw [Instr.opcode, specExec_qadd, qaddOp]
    split <;> simp
  | qsub a b =>
    rw [Instr.opcode, specExec_qsub, qsubOp]
    split <;> simp
  | qmul a b =>
    rw [Instr.opcode, specExec_qmul, qmulOp]
    split <;> simp
  | qdiv a b =>
    rw [Instr.opcode, specExec_qdiv, qdivOp]
    split_ifs <;> simp
  | qpow base e =>
    rw [Instr.opcode, specExec_qpow, qpowOp]
    split <;> simp

/-- An opcode is reserved, or with any operands it makes the command of an instruction. -/
theorem instr_of_not_reserved (op : Opcode) (h : ¬ reservedOpcode op) (a b : Word) :
    ∃ i : Instr, (⟨op, a, b⟩ : Command) = i.command :=
  (reserved_or_command ⟨op, a, b⟩).resolve_left h

/-! ## The packed response (R52) -/

theorem packResponse_toNat (sts : StatusWord) (res : Word) :
    (packResponse sts res).toNat = res.toNat * 2 ^ 4 + sts.toNat := by
  have hs := sts.isLt
  have hr := res.isLt
  rw [packResponse, BitVec.toNat_ofNat, Nat.mod_eq_of_lt (by omega)]

theorem responseStatus_eq_extract (w : ResponseWord) : responseStatus w = w.extractLsb' 0 4 := by
  simp [responseStatus, BitVec.extractLsb']

theorem responseResult_eq_extract (w : ResponseWord) : responseResult w = w.extractLsb' 4 192 := by
  simp [responseResult, BitVec.extractLsb', Nat.shiftRight_eq_div_pow]

theorem responseStatus_packResponse (sts : StatusWord) (res : Word) : responseStatus (packResponse sts res) = sts := by
  have hs := sts.isLt
  apply BitVec.eq_of_toNat_eq
  rw [responseStatus, BitVec.toNat_ofNat, packResponse_toNat]
  omega

theorem responseResult_packResponse (sts : StatusWord) (res : Word) : responseResult (packResponse sts res) = res := by
  have hs := sts.isLt
  have hr := res.isLt
  apply BitVec.eq_of_toNat_eq
  rw [responseResult, BitVec.toNat_ofNat, packResponse_toNat]
  omega

/-! ## The assembler (R54, R59) -/

/-- The opcodes 0x01 to 0x05. -/
theorem unary_opcode_cases (op : Opcode) (hlow : 0x01 ≤ op.toNat) (hhigh : op.toNat ≤ 0x05) :
    op = 0x01 ∨ op = 0x02 ∨ op = 0x03 ∨ op = 0x04 ∨ op = 0x05 := by
  revert op
  decide

/-- EXEC of a unary opcode does not read B. -/
theorem specExec_unary_congr (v : PowVariant) (op : Opcode) (a b b' : Word) (hlow : 0x01 ≤ op.toNat)
    (hhigh : op.toNat ≤ 0x05) : specExec v op a b = specExec v op a b' := by
  rcases unary_opcode_cases op hlow hhigh with rfl | rfl | rfl | rfl | rfl
  · rw [specExec_inttoq, specExec_inttoq]
  · rw [specExec_qtoint, specExec_qtoint]
  · rw [specExec_qtointl, specExec_qtointl]
  · rw [specExec_qfloor, specExec_qfloor]
  · rw [specExec_qceil, specExec_qceil]

/-- A command line read from one operand carries B = 0. -/
theorem readCommand_one_operand (op : Opcode) (text : List Char) (l : Line) (h : readCommand op [text] = .ok l) :
    ∃ x : Operand, l = .command op x (.literal 0) := by
  rw [readCommand] at h
  split at h
  · split at h
    · cases h
      exact ⟨_, rfl⟩
    · cases h
  · cases h

theorem portWord_of_le (n : Nat) (h : n ≤ maxUq) : portWord n = .ok (BitVec.ofNat 192 n) :=
  if_neg (Nat.not_lt.2 h)

theorem portWord_of_lt (n : Nat) (h : maxUq < n) : portWord n = .error .operandTooWide := if_pos h

/-! ## A host step on a command line (R60) -/

/-- Presenting to a core with a command in flight, or under `rst`: the host stays, the core takes its step. -/
theorem hostStep_presenting_blocked {h : ScriptHost} {c : Command} {k : State} (hp : h.phase = .presenting c)
    (hblocked : h.core.busy = true ∨ h.core.now.rst = true) (hk : step (h.core.present c) = .next k) :
    h.step = .next { h with core := k, phase := .presenting c } := by
  have hoff : (h.core.present c).acceptEnabled = false := by
    rcases hblocked with hb | hr
    · simp [State.acceptEnabled, State.reqReady, hb]
    · simp [State.acceptEnabled, hr]
  rw [hostStep_presenting h c hp, hoff, stepCore_next h _ k _ hk]
  rfl

/-- An idle core accepts the command that the host presents. -/
theorem step_present_of_idle (s : State) (c : Command) (hl : legalStatus s.sts = true) (hb : s.busy = false)
    (hr : s.now.rst = false) : step (s.present c) = .next ((s.present c).advance.accept c) :=
  step_of_accept _ (event_of_request _ hr hl hb rfl)

/-- Presenting to an idle core: ACCEPT, and the host awaits. -/
theorem hostStep_presenting_accepted {h : ScriptHost} {c : Command} (hp : h.phase = .presenting c)
    (hl : legalStatus h.core.sts = true) (hb : h.core.busy = false) (hr : h.core.now.rst = false) :
    h.step = .next { h with core := (h.core.present c).advance.accept c, phase := .awaiting } := by
  have hon : (h.core.present c).acceptEnabled = true := (acceptEnabled_iff _).2 ⟨rfl, hb, hr⟩
  rw [hostStep_presenting h c hp, hon, stepCore_next h _ _ _ (step_present_of_idle h.core c hl hb hr)]
  rfl

/-- Awaiting with DONE = 0: the host stays, the core takes its step. -/
theorem hostStep_awaiting_blocked {h : ScriptHost} {k : State} (hp : h.phase = .awaiting) (hd : h.core.done = false)
    (hk : step h.core.withdraw = .next k) : h.step = .next { h with core := k, phase := .awaiting } := by
  rw [hostStep_waits h hp hd, stepCore_next h _ k _ hk]

/-- EXEC of the command just accepted. -/
theorem latchedResponse_accept (s : State) (c : Command) :
    latchedResponse (s.accept c) = specExec s.cfg.powVariant c.op c.a c.b := rfl

/-- With nothing else driven, the command just accepted completes at the next step. -/
theorem step_accepted_of_nil (s : State) (c : Command) (hl : legalStatus s.sts = true) (hlater : s.later = []) :
    step ((s.present c).advance.accept c).withdraw = .next (((s.present c).advance.accept c).withdraw.advance.complete
      (specExec s.cfg.powVariant c.op c.a c.b)) := by
  have hidle : (s.present c).advance.now = .idle := by rw [State.advance_of_nil (s.present c) hlater]
  have hevent : ((s.present c).advance.accept c).withdraw.event = .complete :=
    event_of_complete _ (by simp [hidle, Drive.idle]) (by simpa using hl) rfl (by simp [hidle, Drive.idle])
  have hresponse : latchedResponse ((s.present c).advance.accept c).withdraw =
      specExec s.cfg.powVariant c.op c.a c.b := by simp [latchedResponse]
  rw [step_of_complete _ hevent, hresponse]

/-- The host reads the response that a COMPLETE left. -/
theorem readResponse_complete (s : State) (r : Response) :
    (s.complete r).readResponse = .ok (r.status.code, r.result) := rfl

/-! ## Schedules without a reset (R168) -/

theorem noReset_advance (s : State) (h : NoReset s) : NoReset s.advance := by
  obtain ⟨_, hlater⟩ := h
  cases hs : s.later with
  | nil =>
    rw [State.advance_of_nil s hs]
    exact ⟨rfl, hlater⟩
  | cons d ds =>
    rw [State.advance_of_cons s d ds hs]
    rw [hs] at hlater
    exact ⟨hlater d (by simp), fun e he => hlater e (by simp [he])⟩

/-- A bound on the stalls that are still to come. -/
def stallsAhead (s : State) : Nat := s.later.length + s.now.stall.toNat

theorem stallsAhead_of_stall (s : State) (h : s.now.stall = true) : stallsAhead s = s.later.length + 1 := by
  simp [stallsAhead, h]

/-- A step uses up one drive of the schedule. -/
theorem stallsAhead_advance_le (s : State) : stallsAhead s.advance ≤ s.later.length := by
  cases hs : s.later with
  | nil => simp [stallsAhead, State.advance_of_nil s hs, Drive.idle, hs]
  | cons d ds =>
    rw [State.advance_of_cons s d ds hs]
    simpa [stallsAhead] using Bool.toNat_le d.stall

theorem length_later_le_stallsAhead (s : State) : s.later.length ≤ stallsAhead s := Nat.le_add_right ..

/-! ## A command line ends within a bound -/

/-- Within n host steps the host is at its next line, script and variables unchanged, and the response r is present. -/
def LineEndsWithin (n : Nat) (r : Response) (h : ScriptHost) : Prop :=
  ∃ k ≤ n, ∃ t : ScriptHost, (scriptMachine h.script).run k h = .next t ∧
    t.phase = .ready ∧ t.line = h.line + 1 ∧ t.vars = h.vars ∧ t.script = h.script ∧
    t.core.readResponse = .ok (r.status.code, r.result)

theorem LineEndsWithin.mono {n m : Nat} {r : Response} {h : ScriptHost} (he : LineEndsWithin n r h) (hnm : n ≤ m) :
    LineEndsWithin m r h := by
  obtain ⟨k, hk, rest⟩ := he
  exact ⟨k, hk.trans hnm, rest⟩

/-- A host step that stays at its line counts one. -/
theorem LineEndsWithin.of_step {n : Nat} {r : Response} {h : ScriptHost} {s s' : State} {p p' : Phase}
    (hs : ScriptHost.step { h with core := s, phase := p } = .next { h with core := s', phase := p' })
    (he : LineEndsWithin n r { h with core := s', phase := p' }) :
    LineEndsWithin (n + 1) r { h with core := s, phase := p } := by
  obtain ⟨k, hk, t, hrun, rest⟩ := he
  exact ⟨k + 1, Nat.succ_le_succ hk, t, (scriptMachine_run_succ h.script k _ _ hs).trans hrun, rest⟩

/-- Awaiting, with the response just written. -/
theorem lineEndsWithin_complete (h : ScriptHost) (s : State) (r : Response) :
    LineEndsWithin 1 r { h with core := s.complete r, phase := .awaiting } :=
  ⟨1, le_rfl, _, scriptMachine_run_succ h.script 0 _ _ (hostStep_done _ rfl rfl), rfl, rfl, rfl, rfl,
    readResponse_complete s r⟩

/-- Awaiting a command in flight: the stalls, its COMPLETE, and the step to the next line. -/
theorem lineEndsWithin_awaiting (h : ScriptHost) (s : State) (hb : s.busy = true) (hd : s.done = false)
    (hl : legalStatus s.sts = true) (hn : NoReset s) :
    LineEndsWithin (stallsAhead s + 2) (latchedResponse s) { h with core := s, phase := .awaiting } := by
  cases hs : s.now.stall with
  | true =>
    have hless : stallsAhead s.withdraw.advance < stallsAhead s := by
      rw [stallsAhead_of_stall s hs]
      exact Nat.lt_succ_of_le (stallsAhead_advance_le s.withdraw)
    have hwait : step s.withdraw = .next s.withdraw.advance := step_of_wait _ (event_of_stall _ hn.1 hl hb hs)
    have hrest := lineEndsWithin_awaiting h s.withdraw.advance (by simpa using hb) (by simpa using hd)
      (by simpa using hl) (noReset_advance s.withdraw hn)
    rw [latchedResponse_advance] at hrest
    exact (LineEndsWithin.of_step (hostStep_awaiting_blocked rfl hd hwait) hrest).mono (by omega)
  | false =>
    have hcomplete := step_of_complete _ (event_of_complete s.withdraw hn.1 hl hb hs)
    exact (LineEndsWithin.of_step (hostStep_awaiting_blocked rfl hd hcomplete)
      (lineEndsWithin_complete h _ (latchedResponse s))).mono (by omega)
termination_by stallsAhead s

/-- Presenting to an idle core: ACCEPT, then the command is awaited. -/
theorem lineEndsWithin_presenting_idle (h : ScriptHost) (s : State) (c : Command) (hb : s.busy = false)
    (hl : legalStatus s.sts = true) (hn : NoReset s) :
    LineEndsWithin (s.later.length + 3) (specExec s.cfg.powVariant c.op c.a c.b)
      { h with core := s, phase := .presenting c } := by
  have hahead : stallsAhead ((s.present c).advance.accept c) ≤ s.later.length := stallsAhead_advance_le (s.present c)
  have hrest := lineEndsWithin_awaiting h ((s.present c).advance.accept c) rfl rfl (by simpa using hl)
    (noReset_advance (s.present c) hn)
  rw [latchedResponse_accept, State.advance_cfg] at hrest
  exact (LineEndsWithin.of_step (hostStep_presenting_accepted rfl hl hb hn.1) hrest).mono (by omega)

/-- Presenting: the stalls and the COMPLETE of a command already in flight come first. -/
theorem lineEndsWithin_presenting (h : ScriptHost) (s : State) (c : Command) (hl : legalStatus s.sts = true)
    (hn : NoReset s) :
    LineEndsWithin (stallsAhead s + 4) (specExec s.cfg.powVariant c.op c.a c.b)
      { h with core := s, phase := .presenting c } := by
  have hahead : stallsAhead (s.present c).advance ≤ s.later.length := stallsAhead_advance_le (s.present c)
  have hn' : NoReset (s.present c).advance := noReset_advance (s.present c) hn
  have hcfg : (s.present c).advance.cfg = s.cfg := State.advance_cfg _
  cases hb : s.busy with
  | false =>
    have hlater : s.later.length ≤ stallsAhead s := length_later_le_stallsAhead s
    exact (lineEndsWithin_presenting_idle h s c hb hl hn).mono (by omega)
  | true =>
    cases hs : s.now.stall with
    | true =>
      have hless : stallsAhead (s.present c).advance < stallsAhead s := by
        rw [stallsAhead_of_stall s hs]
        exact Nat.lt_succ_of_le hahead
      have hwait := step_of_wait _ (event_of_stall (s.present c) hn.1 hl hb hs)
      have hrest := lineEndsWithin_presenting h (s.present c).advance c (by simpa using hl) hn'
      rw [hcfg] at hrest
      exact (LineEndsWithin.of_step (hostStep_presenting_blocked rfl (.inl hb) hwait) hrest).mono (by omega)
    | false =>
      have hcomplete := step_of_complete _ (event_of_complete (s.present c) hn.1 hl hb hs)
      have hlater : (s.present c).advance.later.length ≤ stallsAhead s :=
        (length_later_le_stallsAhead _).trans (hahead.trans (length_later_le_stallsAhead s))
      have hrest := lineEndsWithin_presenting_idle h
        ((s.present c).advance.complete (latchedResponse (s.present c))) c rfl
        ((legalStatus_iff _).2 (Status.code_legal _)) hn'
      rw [State.complete_later, State.complete_cfg, hcfg] at hrest
      exact (LineEndsWithin.of_step (hostStep_presenting_blocked rfl (.inl hb) hcomplete) hrest).mono (by omega)
termination_by stallsAhead s

/-! ## Tier 3 -/

/-- Settles O1: packing loses no field, and a command decodes to its instruction. -/
theorem decodeInvertsEncode : Obligations.DecodeInvertsEncode := by
  intro i
  exact (decodeWord_of_pack rfl).trans (decode_command i)

/-! ## Tier 2 -/

/-- Settles O2: the decoded command is the instruction's, and packing it restores every bit. -/
theorem encodeInvertsDecode : Obligations.EncodeInvertsDecode := by
  intro w i h
  rw [encode, ← (decode_eq_ok_iff _ _).1 h, pack_unpack]

/-- Settles O5, by whether the opcode is reserved. -/
theorem everyOpcodeSelectsOneRow : Obligations.EveryOpcodeSelectsOneRow := by
  intro op
  by_cases hr : reservedOpcode op
  · exact .inl ⟨hr, rows_of_reserved op hr, fun a b => decode_reserved ⟨op, a, b⟩ hr⟩
  · refine .inr ⟨hr, ?_, fun a b => ?_⟩
    · obtain ⟨i, hi⟩ := instr_of_not_reserved op hr 0 0
      obtain rfl : op = i.opcode := congrArg Command.op hi
      obtain ⟨r, hmem, hval⟩ := exists_row_of_instr i
      exact ⟨r, hval ▸ rows_of_row r hmem, hval⟩
    · obtain ⟨i, hi⟩ := instr_of_not_reserved op hr a b
      obtain ⟨rfl, rfl, rfl⟩ := Command.mk.inj hi
      exact ⟨⟨i, decode_command i, rfl, rfl, rfl⟩, fun v => specExec_instr_ne_illegal v i⟩

/-- Settles O59: the steps of a host that presents and of one that awaits; then the four steps on an idle core, whose second
and third are ACCEPT and COMPLETE. -/
theorem commandLineBlocksUntilResponse : Obligations.CommandLineBlocksUntilResponse := by
  refine ⟨fun h c hp hl => ?_, fun h hp hl => ?_, fun h st op a b x y hp hline hst ha hb hl hbusy hr hlater => ?_⟩
  · have hl := (legalStatus_iff _).2 hl
    refine ⟨fun hblocked => ?_, fun hb hr => ?_⟩
    · obtain ⟨k, hk⟩ := stepGoesOn_of_legal (h.core.present c) hl
      exact ⟨_, hostStep_presenting_blocked hp hblocked hk, rfl, rfl, rfl, rfl, hk⟩
    · exact ⟨_, hostStep_presenting_accepted hp hl hb hr, rfl, rfl, rfl, rfl, step_present_of_idle h.core c hl hb hr,
        rfl, rfl, rfl, rfl, rfl⟩
  · refine ⟨fun hd => ?_, fun hd => ⟨_, hostStep_done h hp hd, rfl, rfl, rfl, rfl, rfl⟩⟩
    obtain ⟨k, hk⟩ := stepGoesOn_of_legal h.core.withdraw ((legalStatus_iff _).2 hl)
    exact ⟨_, hostStep_awaiting_blocked hp hd hk, rfl, rfl, rfl, rfl, hk⟩
  · have hl := (legalStatus_iff _).2 hl
    have hbegin := hostStep_command h st op a b x y hp hline hst ha hb
    have haccept := hostStep_presenting_accepted (h := { h with phase := .presenting ⟨op, x, y⟩ }) rfl hl hbusy hr
    have hcomplete := hostStep_awaiting_blocked (h := { h with
      core := (h.core.present ⟨op, x, y⟩).advance.accept ⟨op, x, y⟩, phase := .awaiting }) rfl rfl
      (step_accepted_of_nil h.core ⟨op, x, y⟩ hl hlater)
    exact ⟨_, _, _, _, hbegin, haccept, hcomplete, hostStep_done _ rfl rfl, rfl, rfl, rfl, rfl,
      readResponse_complete _ _⟩

/-- Settles O60: one step begins the line, then the host presents. -/
theorem commandLineEndsWithItsResponse : Obligations.CommandLineEndsWithItsResponse := by
  intro h st op a b x y hp hline hst ha hb hl hn
  have hbegin := hostStep_command h st op a b x y hp hline hst ha hb
  have hahead : stallsAhead h.core ≤ h.core.later.length + 1 :=
    Nat.add_le_add_left (Bool.toNat_le _) _
  have hrest := lineEndsWithin_presenting h h.core ⟨op, x, y⟩ ((legalStatus_iff _).2 hl) hn
  exact (LineEndsWithin.of_step (h := h) (s := h.core) (p := h.phase) hbegin hrest).mono (by omega)

/-! ## Tier 1 -/

/-- Settles O3: the fields are those that unpacking reads. -/
theorem commandWordLayout : Obligations.CommandWordLayout := by
  refine ⟨fun c => ?_, fun _ => rfl⟩
  have hfields := (unpack_eq_extract c.pack).symm.trans (Laws.unpack_pack c)
  exact ⟨pack_toNat c, congrArg Command.op hfields, congrArg Command.a hfields, congrArg Command.b hfields,
    Laws.unpack_pack c⟩

/-- Settles O4: RSP packs the two registers, and the readers are its bit fields. -/
theorem responseWordLayout : Obligations.ResponseWordLayout := by
  intro s
  have hsts := responseStatus_packResponse s.sts s.res
  have hres := responseResult_packResponse s.sts s.res
  exact ⟨packResponse_toNat s.sts s.res, (responseStatus_eq_extract _).symm.trans hsts,
    (responseResult_eq_extract _).symm.trans hres, hsts, hres⟩

/-- QADD of two values whose sum fits (R90). -/
theorem qaddOp_of_fits (a b : Word) (h : a.toNat + b.toNat ≤ maxUq) : qaddOp a b = succeed (a.toNat + b.toNat) :=
  if_neg (Nat.not_lt.2 h)

/-- Settles O6: 1.5 + 2.25 fits. -/
theorem exampleWordDecodesAndCompletes : Obligations.ExampleWordDecodesAndCompletes := by
  have hword : encode (.qadd 0x18000000000000000#192 0x24000000000000000#192) =
      0x2400000000000000000000000000000000000000000000001800000000000000006#392 := by decide
  refine ⟨decodeWord_of_encode hword, hword, fun s => ?_⟩
  exact next_complete_congr s (qaddOp_of_fits _ _ (by decide)).symm

/-- Settles O7: each word is the encoding of its command, and the opcode of the ninth is reserved. -/
theorem listedWordsDecode : Obligations.ListedWordsDecode := by
  have hreserved : Command.pack ⟨0x0B, 0x50000000000000000#192, 0⟩ = 0x500000000000000000B#392 := by decide
  exact ⟨decodeWord_of_encode (by decide), decodeWord_of_encode (by decide), decodeWord_of_encode (by decide),
    decodeWord_of_encode (by decide), decodeWord_of_encode (by decide), decodeWord_of_encode (by decide),
    decodeWord_of_encode (by decide), decodeWord_of_encode (by decide),
    (decodeWord_of_pack hreserved).trans (decode_reserved _ (.inr (by decide)))⟩

/-- Settles O39: EXEC of a unary opcode drops B, and the reader of its command line writes 0 there. -/
theorem ignoredOperandHasNoEffect : Obligations.IgnoredOperandHasNoEffect := by
  intro op hlow hhigh
  exact ⟨fun v a b b' => specExec_unary_congr v op a b b' hlow hhigh, readCommand_one_operand op⟩

/-- Settles O58: a number up to MAX_UQINT keeps its value in 192 bits, and encode(r) is a quotient. -/
theorem assemblerNumbers : Obligations.AssemblerNumbers := by
  refine ⟨fun n => ⟨fun h => ?_, portWord_of_lt n⟩, fun digits scale => ?_⟩
  · exact ⟨_, portWord_of_le n h, toNat_ofNat_of_lt n (by omega)⟩
  · exact ⟨Nat.div_mul_le_self _ _,
      (Nat.div_lt_iff_lt_mul (Nat.pow_pos (by decide))).1 (Nat.lt_succ_self _)⟩

end Sys2Proof.Proofs

/-! # Proofs for the family of `41_conversion_rounding.md`

Each conversion and rounding by the cases of its rule (R70 to R78), on the numbers that the operands stand for; then what
two of them do in a row (R71, R75, R77, R79). A value is integral when `x.toNat % 2 ^ 64 = 0`. -/

namespace Sys2Proof.Proofs

open Sys2Proof.Machine Sys2Proof.Safety

/-! ## A meaning whose response is known -/

/-- The next state of a success: STS = 0, RES = v, BUSY cleared, DONE set (R27, R143). -/
theorem exec_of_succeed {i : Instr} {s : State} {r : Response} {v : Nat} (hi : exec i s = .next (s.complete r))
    (hr : r = succeed v) :
    exec i s = .next { s with sts := 0, res := BitVec.ofNat 192 v, busy := false, done := true } := by
  rw [hi, hr]
  rfl

/-- The next state of a failure: RES = 0 whatever the error (R27, R144). -/
theorem exec_of_raise {i : Instr} {s : State} {r : Response} {e : Status} (hi : exec i s = .next (s.complete r))
    (hr : r = raise e) : exec i s = .next { s with sts := e.code, res := 0, busy := false, done := true } := by
  rw [hi, hr]
  rfl

/-! ## Bounds of the parts of a word -/

theorem toNat_div_lt (x : Word) : x.toNat / 2 ^ 64 < 2 ^ 128 := intPart_eq x ▸ intPart_lt x

theorem floor_le_top (x : Word) : x.toNat / 2 ^ 64 * 2 ^ 64 ≤ 2 ^ 192 - 2 ^ 64 := by
  have := toNat_div_lt x
  omega

/-- A value with a fraction has the highest integer part exactly when it is above the highest integral value (R78). -/
theorem fraction_at_top_iff (x : Word) :
    x.toNat % 2 ^ 64 ≠ 0 ∧ x.toNat / 2 ^ 64 = 2 ^ 128 - 1 ↔ 2 ^ 192 - 2 ^ 64 + 1 ≤ x.toNat := by
  have := toNat_div_lt x
  omega

/-! ## The operations by cases -/

/-- INTTOQ of a convertible integer (R70). -/
theorem inttoqOp_of_le (n : Word) (h : n.toNat ≤ 2 ^ 128 - 1) : inttoqOp n = succeed (n.toNat * 2 ^ 64) :=
  if_neg (Nat.not_lt.2 h)

theorem inttoqOp_of_lt (n : Word) (h : 2 ^ 128 - 1 < n.toNat) : inttoqOp n = raise .conversionOverflow := if_pos h

/-- QTOINT of an integral value (R72). -/
theorem qtointOp_of_integral (x : Word) (h : x.toNat % 2 ^ 64 = 0) : qtointOp x = succeed (x.toNat / 2 ^ 64) := by
  rw [qtointOp, fracPart_eq, if_neg (not_not_intro h), intPart_eq]

theorem qtointOp_of_fraction (x : Word) (h : x.toNat % 2 ^ 64 ≠ 0) : qtointOp x = raise .truncatingDecimals := by
  rw [qtointOp, fracPart_eq, if_pos h]

/-- QTOINTL of every value (R74). -/
theorem qtointlOp_eq (x : Word) : qtointlOp x = succeed (x.toNat / 2 ^ 64) := by
  rw [qtointlOp, intPart_eq]

/-- QFLOOR of every value (R76). -/
theorem qfloorOp_eq (x : Word) : qfloorOp x = succeed (x.toNat / 2 ^ 64 * 2 ^ 64) := by
  rw [qfloorOp, floorPart_eq]

theorem qfloorOp_of_integral (x : Word) (h : x.toNat % 2 ^ 64 = 0) : qfloorOp x = succeed x.toNat := by
  rw [qfloorOp_eq, Nat.div_mul_cancel (Nat.dvd_of_mod_eq_zero h)]

/-- QCEIL of an integral value (R78). -/
theorem qceilOp_of_integral (x : Word) (h : x.toNat % 2 ^ 64 = 0) : qceilOp x = succeed x.toNat := by
  rw [qceilOp, fracPart_eq, if_pos h]

/-- QCEIL's test on the sum is a test on the integer part (R78). -/
theorem floorPart_add_one_overflows_iff (x : Word) : maxUq < floorPart x + one ↔ x.toNat / 2 ^ 64 = 2 ^ 128 - 1 := by
  have := toNat_div_lt x
  rw [floorPart_eq, maxUq_eq, one_eq]
  omega

/-- QCEIL of a value with a fraction, with an integral value above it. -/
theorem qceilOp_of_below_top (x : Word) (hf : x.toNat % 2 ^ 64 ≠ 0) (h : x.toNat / 2 ^ 64 < 2 ^ 128 - 1) :
    qceilOp x = succeed (x.toNat / 2 ^ 64 * 2 ^ 64 + 2 ^ 64) := by
  have hfits : ¬ maxUq < floorPart x + one := fun hc => h.ne ((floorPart_add_one_overflows_iff x).1 hc)
  rw [qceilOp, fracPart_eq, if_neg hf, if_neg hfits, floorPart_eq]

/-- QCEIL of a value with a fraction, above the highest integral value. -/
theorem qceilOp_of_top (x : Word) (hf : x.toNat % 2 ^ 64 ≠ 0) (h : x.toNat / 2 ^ 64 = 2 ^ 128 - 1) :
    qceilOp x = raise .ceilOverflow := by
  rw [qceilOp, fracPart_eq, if_neg hf, if_pos ((floorPart_add_one_overflows_iff x).2 h)]

/-! ## INTTOQ and QTOINT -/

/-- QTOINT gives back what INTTOQ converted (R71). -/
theorem qtointOp_inttoqOp (n : Word) (h : n.toNat ≤ 2 ^ 128 - 1) : qtointOp (inttoqOp n).result = succeed n.toNat := by
  have hval : (inttoqOp n).result.toNat = n.toNat * 2 ^ 64 := by
    rw [inttoqOp_of_le n h, succeed_result, toNat_ofNat_of_lt _ (by omega)]
  rw [qtointOp_of_integral _ (by omega), hval, Nat.mul_div_cancel _ (by decide)]

/-! ## QFLOOR -/

theorem qfloorOp_toNat (x : Word) : (qfloorOp x).result.toNat = x.toNat / 2 ^ 64 * 2 ^ 64 := by
  rw [qfloorOp_eq, succeed_result, toNat_ofNat_of_lt _ ((floor_le_top x).trans_lt (by decide))]

theorem qfloorOp_integral (x : Word) : (qfloorOp x).result.toNat % 2 ^ 64 = 0 := by
  rw [qfloorOp_toNat, Nat.mul_mod_left]

theorem qfloorOp_le (x : Word) : (qfloorOp x).result.toNat ≤ x.toNat := by
  rw [qfloorOp_toNat]
  exact Nat.div_mul_le_self _ _

/-- QFLOOR keeps exactly the integral values (R77). -/
theorem qfloorOp_result_eq_iff (x : Word) : (qfloorOp x).result = x ↔ x.toNat % 2 ^ 64 = 0 := by
  constructor
  · intro h
    rw [← h, qfloorOp_integral]
  · intro h
    rw [qfloorOp_of_integral x h, succeed_result, ofNat_toNat_word]

/-- A second QFLOOR has the response of the first (R77). -/
theorem qfloorOp_idempotent (x : Word) : qfloorOp (qfloorOp x).result = qfloorOp x := by
  rw [qfloorOp_of_integral _ (qfloorOp_integral x), qfloorOp_toNat, ← qfloorOp_eq]

/-- The floor converts without loss, to the integer part of x (R75). -/
theorem qtointOp_qfloorOp (x : Word) : qtointOp (qfloorOp x).result = qtointlOp x := by
  rw [qtointOp_of_integral _ (qfloorOp_integral x), qfloorOp_toNat, Nat.mul_div_cancel _ (by decide), qtointlOp_eq]

/-! ## QCEIL where it succeeds -/

/-- QCEIL succeeds on an integral value and below the highest integral value. -/
theorem qceilOp_cases_of_ok (x : Word) (h : (qceilOp x).status = .ok) :
    (x.toNat % 2 ^ 64 = 0 ∧ (qceilOp x).result.toNat = x.toNat) ∨
    (x.toNat % 2 ^ 64 ≠ 0 ∧ (qceilOp x).result.toNat = x.toNat / 2 ^ 64 * 2 ^ 64 + 2 ^ 64) := by
  by_cases hf : x.toNat % 2 ^ 64 = 0
  · exact .inl ⟨hf, by rw [qceilOp_of_integral x hf, succeed_result, ofNat_toNat_word]⟩
  · rcases (Nat.le_sub_one_of_lt (toNat_div_lt x)).lt_or_eq with hlt | heq
    · exact .inr ⟨hf, by rw [qceilOp_of_below_top x hf hlt, succeed_result, toNat_ofNat_of_lt _ (by omega)]⟩
    · rw [qceilOp_of_top x hf heq] at h
      cases h

theorem qceilOp_integral_of_ok (x : Word) (h : (qceilOp x).status = .ok) :
    (qceilOp x).result.toNat % 2 ^ 64 = 0 := by
  rcases qceilOp_cases_of_ok x h with ⟨hf, hval⟩ | ⟨_, hval⟩ <;> omega

theorem le_qceilOp_of_ok (x : Word) (h : (qceilOp x).status = .ok) : x.toNat ≤ (qceilOp x).result.toNat := by
  rcases qceilOp_cases_of_ok x h with ⟨_, hval⟩ | ⟨_, hval⟩ <;> omega

/-- QCEIL, where it succeeds, keeps exactly the integral values (R79). -/
theorem eq_qceilOp_result_iff_of_ok (x : Word) (h : (qceilOp x).status = .ok) :
    x = (qceilOp x).result ↔ x.toNat % 2 ^ 64 = 0 := by
  constructor
  · intro heq
    rw [heq, qceilOp_integral_of_ok x h]
  · intro hf
    rw [qceilOp_of_integral x hf, succeed_result, ofNat_toNat_word]

/-! ## Tier 2 -/

/-- Settles O9: INTTOQ's result is integral and its integer part is n. -/
theorem inttoqThenQtointGivesBack : Obligations.InttoqThenQtointGivesBack := by
  intro n b b' s
  constructor
  · intro h
    exact ⟨_, _, rfl, exec_of_succeed rfl (qtointOp_inttoqOp n h), rfl, ofNat_toNat_word n⟩
  · intro h
    exact ⟨_, exec_of_raise rfl (inttoqOp_of_lt n h), rfl⟩

/-- Settles O13: the QTOINT that follows has QTOINTL's response, which is a success. -/
theorem qtointlIsQtointOfQfloor : Obligations.QtointlIsQtointOfQfloor := by
  intro x b s
  have hconvert := (qtointOp_qfloorOp x).trans (qtointlOp_eq x)
  exact ⟨_, _, _, exec_of_succeed rfl (qtointlOp_eq x), rfl, exec_of_succeed rfl hconvert, rfl, rfl⟩

/-- Settles O15: the floor is integral, and QFLOOR keeps exactly the integral values. -/
theorem qfloorIdempotentAndBelow : Obligations.QfloorIdempotentAndBelow := by
  intro x b s
  have hsame := qfloorOp_idempotent x
  exact ⟨_, _, rfl, rfl, congrArg (fun r => r.status.code) hsame, congrArg Response.result hsame, qfloorOp_le x,
    qfloorOp_result_eq_iff x⟩

/-- Settles O17: where QCEIL succeeds its result is an integral value at or above x, so QCEIL keeps it. -/
theorem floorAndCeilingEncloseValue : Obligations.FloorAndCeilingEncloseValue := by
  intro x b s c hc hsts
  cases hc
  have hok : (qceilOp x).status = .ok := (Status.code_eq_zero_iff _).1 hsts
  have hkeeps := qceilOp_of_integral _ (qceilOp_integral_of_ok x hok)
  exact ⟨_, _, rfl, exec_of_succeed rfl hkeeps, qfloorOp_le x, le_qceilOp_of_ok x hok, qfloorOp_result_eq_iff x,
    eq_qceilOp_result_iff_of_ok x hok, rfl, ofNat_toNat_word _⟩

/-! ## Tier 1 -/

/-- Settles O8, by whether n is convertible. -/
theorem inttoqScalesOrOverflows : Obligations.InttoqScalesOrOverflows := by
  intro n b s
  refine ⟨decode_command (.inttoq n b), by omega, fun h => ⟨by omega, ?_⟩, fun h => ?_⟩
  · exact exec_of_succeed rfl (inttoqOp_of_le n h)
  · exact exec_of_raise rfl (inttoqOp_of_lt n h)

/-- Settles O10, by whether x is integral. -/
theorem qtointConvertsIntegralOnly : Obligations.QtointConvertsIntegralOnly := by
  intro x b s
  refine ⟨decode_command (.qtoint x b), fun h => ⟨toNat_div_lt x, ?_⟩, fun h => ?_⟩
  · exact exec_of_succeed rfl (qtointOp_of_integral x h)
  · exact exec_of_raise rfl (qtointOp_of_fraction x h)

/-- Settles O11: QTOINT checks the fraction, QTOINTL does not. -/
theorem fractionFailsQtointNotQtointl : Obligations.FractionFailsQtointNotQtointl := by
  intro x b s h
  have hfits : x.toNat / 2 ^ 64 < 2 ^ 192 := (toNat_div_lt x).trans (by decide)
  exact ⟨⟨_, exec_of_raise rfl (qtointOp_of_fraction x h), rfl⟩,
    _, exec_of_succeed rfl (qtointlOp_eq x), rfl, toNat_ofNat_of_lt _ hfits⟩

/-- Settles O12: QTOINTL has one case. -/
theorem qtointlDiscardsFraction : Obligations.QtointlDiscardsFraction := by
  intro x b s
  exact ⟨decode_command (.qtointl x b), toNat_div_lt x, exec_of_succeed rfl (qtointlOp_eq x)⟩

/-- Settles O14: QFLOOR has one case. -/
theorem qfloorClearsFraction : Obligations.QfloorClearsFraction := by
  intro x b s
  exact ⟨decode_command (.qfloor x b), floor_le_top x, exec_of_succeed rfl (qfloorOp_eq x)⟩

/-- Settles O16, by the three cases of QCEIL. -/
theorem qceilRoundsUpOrOverflows : Obligations.QceilRoundsUpOrOverflows := by
  intro x b s
  refine ⟨decode_command (.qceil x b), fraction_at_top_iff x, fun h => ?_, fun hf h => ⟨by omega, ?_⟩, fun hf h => ?_⟩
  · rw [exec_of_succeed rfl (qceilOp_of_integral x h), ofNat_toNat_word]
  · exact exec_of_succeed rfl (qceilOp_of_below_top x hf h)
  · exact exec_of_raise rfl (qceilOp_of_top x hf h)

end Sys2Proof.Proofs

/-! # Proofs for the family of `42_add_sub.md`

QADD and QSUB by the two cases of their rules (R90, R92); then what follows from the cases: QADD commutes (R91), and
undoes a QSUB that succeeds (R93). -/

namespace Sys2Proof.Proofs

open Sys2Proof.Machine Sys2Proof.Safety

/-! ## The operations by cases -/

/-- QADD of two values whose sum carries out (R90). -/
theorem qaddOp_of_carry (a b : Word) (h : 2 ^ 192 ≤ a.toNat + b.toNat) : qaddOp a b = raise .additionOverflow :=
  if_pos (by rw [maxUq_eq]; omega)

/-- QSUB of a value that is not above the minuend (R92). -/
theorem qsubOp_of_le (a b : Word) (h : b.toNat ≤ a.toNat) : qsubOp a b = succeed (a.toNat - b.toNat) :=
  if_neg (Nat.not_lt.2 h)

/-- QSUB of a value above the minuend, which borrows (R92). -/
theorem qsubOp_of_lt (a b : Word) (h : a.toNat < b.toNat) : qsubOp a b = raise .subtractionUnderflow := if_pos h

/-! ## What follows from the cases -/

/-- QADD looks only at the sum of its operands (R91). -/
theorem qaddOp_comm (a b : Word) : qaddOp a b = qaddOp b a := by
  rw [qaddOp, qaddOp, Nat.add_comm]

/-- The sum of a difference and its subtrahend is the minuend, which fits (R93). -/
theorem qaddOp_qsubOp (a b : Word) (h : b.toNat ≤ a.toNat) : qaddOp (qsubOp a b).result b = succeed a.toNat := by
  have hdiff : (qsubOp a b).result.toNat = a.toNat - b.toNat := by
    rw [qsubOp_of_le a b h, succeed_result, toNat_ofNat_of_lt _ ((Nat.sub_le _ _).trans_lt a.isLt)]
  have hsum : (qsubOp a b).result.toNat + b.toNat = a.toNat := by rw [hdiff, Nat.sub_add_cancel h]
  rw [qaddOp_of_fits _ _ (hsum.trans_le (Nat.le_sub_one_of_lt a.isLt)), hsum]

/-- QSUB succeeds exactly when its difference is not negative (R92). -/
theorem qsubOp_ok_iff (a b : Word) : (qsubOp a b).status = .ok ↔ b.toNat ≤ a.toNat := by
  rcases Nat.lt_or_ge a.toNat b.toNat with h | h
  · rw [qsubOp_of_lt a b h, raise_status]
    exact iff_of_false (by decide) h.not_ge
  · rw [qsubOp_of_le a b h, succeed_status]
    exact iff_of_true rfl h

/-- STS = 4 of a QSUB says exactly that it borrowed (R92, R140). -/
theorem qsubOp_code_eq_four_iff (a b : Word) : (qsubOp a b).status.code = 4 ↔ a.toNat < b.toNat := by
  rcases Nat.lt_or_ge a.toNat b.toNat with h | h
  · rw [qsubOp_of_lt a b h, raise_status]
    exact iff_of_true rfl h
  · rw [qsubOp_of_le a b h, succeed_status]
    exact iff_of_false (by decide) h.not_gt

/-! ## Tier 2 -/

/-- Settles O21: where QSUB succeeds, its result plus b is a. -/
theorem qaddUndoesQsub : Obligations.QaddUndoesQsub := by
  intro a b s
  refine ⟨_, rfl, qsubOp_code_eq_four_iff a b, fun hsts => ?_⟩
  have hle : b.toNat ≤ a.toNat := (qsubOp_ok_iff a b).1 ((Status.code_eq_zero_iff _).1 hsts)
  exact ⟨_, exec_of_succeed rfl (qaddOp_qsubOp a b hle), rfl, ofNat_toNat_word a⟩

/-! ## Tier 1 -/

/-- Settles O18, by whether the sum fits. -/
theorem qaddSumsOrOverflows : Obligations.QaddSumsOrOverflows := by
  intro a b s
  refine ⟨decode_command (.qadd a b), fun h => ?_, fun h => ?_⟩
  · exact exec_of_succeed rfl (qaddOp_of_fits a b h)
  · exact exec_of_raise rfl (qaddOp_of_carry a b h)

/-- Settles O19: EXEC and the meaning are both QADD's response, which commutes. -/
theorem qaddCommutes : Obligations.QaddCommutes := by
  intro v a b s
  constructor
  · rw [specExec_qadd, specExec_qadd, qaddOp_comm]
  · exact next_complete_congr s (qaddOp_comm b a)

/-- Settles O20, by whether the subtraction borrows. -/
theorem qsubSubtractsOrUnderflows : Obligations.QsubSubtractsOrUnderflows := by
  intro a b s
  refine ⟨decode_command (.qsub a b), fun h => ?_, fun h => ?_⟩
  · exact exec_of_succeed rfl (qsubOp_of_le a b h)
  · exact exec_of_raise rfl (qsubOp_of_lt a b h)

end Sys2Proof.Proofs

/-! # Proofs for the family of `43_mul.md`

QMUL by the two cases of its rule (R101), on the exact product; then what follows from the cases: QMUL commutes (R102),
has ONE as its identity (R103), and truncates by less than one unit (R104). -/

namespace Sys2Proof.Proofs

open Sys2Proof.Machine Sys2Proof.Safety

/-! ## The operation by cases -/

/-- QMUL of two values whose rescaled product fits (R101). -/
theorem qmulOp_of_fits (a b : Word) (h : a.toNat * b.toNat < 2 ^ 256) :
    qmulOp a b = succeed (a.toNat * b.toNat / 2 ^ 64) :=
  if_neg fun hc => h.not_ge ((mulRaw_overflow_iff _ _).1 hc)

/-- QMUL of two values whose rescaled product is above MAX_UQINT (R101). -/
theorem qmulOp_of_overflow (a b : Word) (h : 2 ^ 256 ≤ a.toNat * b.toNat) :
    qmulOp a b = raise .multiplicationOverflow :=
  if_pos ((mulRaw_overflow_iff _ _).2 h)

/-- A rescaled product that fits is not cut off. -/
theorem qmulOp_toNat_of_fits (a b : Word) (h : a.toNat * b.toNat < 2 ^ 256) :
    (qmulOp a b).result.toNat = a.toNat * b.toNat / 2 ^ 64 := by
  rw [qmulOp_of_fits a b h, succeed_result, toNat_ofNat_of_lt _ (by omega)]

/-- QMUL succeeds exactly when its product is below 2^256 (R101). -/
theorem qmulOp_ok_iff (a b : Word) : (qmulOp a b).status = .ok ↔ a.toNat * b.toNat < 2 ^ 256 := by
  rcases Nat.lt_or_ge (a.toNat * b.toNat) (2 ^ 256) with h | h
  · rw [qmulOp_of_fits a b h, succeed_status]
    exact iff_of_true rfl h
  · rw [qmulOp_of_overflow a b h, raise_status]
    exact iff_of_false (by decide) h.not_gt

/-! ## What follows from the cases -/

/-- QMUL looks only at the product of its operands (R102). -/
theorem qmulOp_comm (a b : Word) : qmulOp a b = qmulOp b a := by
  rw [qmulOp, qmulOp, mulRaw_comm]

/-- The product with ONE is the operand scaled by 2^64, which the rescaling undoes (R103). -/
theorem qmulOp_one (x : Word) : qmulOp x (BitVec.ofNat 192 (2 ^ 64)) = succeed x.toNat := by
  have hone : (BitVec.ofNat 192 (2 ^ 64)).toNat = 2 ^ 64 := toNat_ofNat_of_lt _ (by decide)
  have hfits : x.toNat * 2 ^ 64 < 2 ^ 256 := by
    have := x.isLt
    omega
  rw [qmulOp_of_fits _ _ (by rwa [hone]), hone, Nat.mul_div_cancel _ (by decide)]

/-- A result that fits is below the exact quotient by less than one unit (R104). -/
theorem qmulOp_encloses_of_fits (a b : Word) (h : a.toNat * b.toNat < 2 ^ 256) :
    (qmulOp a b).result.toNat * 2 ^ 64 ≤ a.toNat * b.toNat ∧
    a.toNat * b.toNat < ((qmulOp a b).result.toNat + 1) * 2 ^ 64 := by
  rw [qmulOp_toNat_of_fits a b h]
  omega

/-- Where the product has low bits, the truncation loses them (R104). -/
theorem qmulOp_lt_of_remainder (a b : Word) (h : a.toNat * b.toNat < 2 ^ 256)
    (hrem : a.toNat * b.toNat % 2 ^ 64 ≠ 0) : (qmulOp a b).result.toNat * 2 ^ 64 < a.toNat * b.toNat := by
  rw [qmulOp_toNat_of_fits a b h]
  omega

/-! ## Tier 2 -/

/-- Settles O25: a success is a product that fits, and 3 * 2^63 rescaled loses the half that 2^63 * 2^65 first makes
whole. -/
theorem qmulTruncatesTowardZero : Obligations.QmulTruncatesTowardZero := by
  refine ⟨fun a b s t ht hsts => ?_, fun a b s hfits hrem => ?_, fun s => ?_⟩
  · cases ht
    exact qmulOp_encloses_of_fits a b ((qmulOp_ok_iff a b).1 ((Status.code_eq_zero_iff _).1 hsts))
  · have hok : (qmulOp a b).status = .ok := (qmulOp_ok_iff a b).2 hfits
    exact ⟨_, rfl, (Status.code_eq_zero_iff _).2 hok, qmulOp_lt_of_remainder a b hfits hrem⟩
  · have hloses : qmulOp 3 (BitVec.ofNat 192 (2 ^ 63)) = succeed 1 := qmulOp_of_fits _ _ (by decide)
    have hleft : qmulOp (BitVec.ofNat 192 1) (BitVec.ofNat 192 (2 ^ 65)) = succeed 2 := qmulOp_of_fits _ _ (by decide)
    have hexact : qmulOp (BitVec.ofNat 192 (2 ^ 63)) (BitVec.ofNat 192 (2 ^ 65)) = succeed (2 ^ 64) :=
      qmulOp_of_fits _ _ (by decide)
    have hright : qmulOp 3 (BitVec.ofNat 192 (2 ^ 64)) = succeed 3 := qmulOp_one 3
    exact ⟨_, _, _, _, exec_of_succeed rfl hloses, rfl, exec_of_succeed rfl hleft, rfl, rfl,
      exec_of_succeed rfl hexact, rfl, exec_of_succeed rfl hright, rfl, rfl⟩

/-! ## Tier 1 -/

/-- Settles O22, by whether the product is below 2^256. -/
theorem qmulRescalesOrOverflows : Obligations.QmulRescalesOrOverflows := by
  intro a b s
  refine ⟨decode_command (.qmul a b), by omega, fun h => ?_, fun h => ?_⟩
  · exact exec_of_succeed rfl (qmulOp_of_fits a b h)
  · exact exec_of_raise rfl (qmulOp_of_overflow a b h)

/-- Settles O23: EXEC and the meaning are both QMUL's response, which commutes. -/
theorem qmulCommutes : Obligations.QmulCommutes := by
  intro v a b s
  constructor
  · rw [specExec_qmul, specExec_qmul, qmulOp_comm]
  · exact next_complete_congr s (qmulOp_comm b a)

/-- Settles O24: the response of QMUL x, ONE is a success with x. -/
theorem qmulByOneIsIdentity : Obligations.QmulByOneIsIdentity := by
  intro x s
  rw [exec_of_succeed rfl (qmulOp_one x), ofNat_toNat_word]

end Sys2Proof.Proofs

/-! # Proofs for the family of `44_div.md`

QDIV by the three cases of its rule (R111), with the test on the quotient turned into one on the operands (R112): a
dividend below b * 2^128 leaves b not zero, so one comparison says where QDIV succeeds. Then what follows from the cases:
the truncation is below one unit (R114), ONE divides exactly (R113), and QDIV does not commute (R115). -/

namespace Sys2Proof.Proofs

open Sys2Proof.Machine Sys2Proof.Safety

/-! ## The overflow test (R112) -/

/-- The quotient needs more than 192 bits exactly when 2^192 times the divisor is within the scaled dividend. -/
theorem two_pow_le_quotient_iff (a : Nat) {b : Nat} (hb : b ≠ 0) :
    2 ^ 192 ≤ a * 2 ^ 64 / b ↔ 2 ^ 192 * b ≤ a * 2 ^ 64 :=
  Nat.le_div_iff_mul_le (Nat.pos_of_ne_zero hb)

/-- The quotient is above MAX_UQINT exactly when the dividend is at least the divisor times 2^128. -/
theorem quotient_overflows_iff (a : Nat) {b : Nat} (hb : b ≠ 0) :
    2 ^ 192 - 1 < a * 2 ^ 64 / b ↔ b * 2 ^ 128 ≤ a := by
  have hscaled := two_pow_le_quotient_iff a hb
  omega

/-! ## The operation by cases -/

/-- QDIV by zero (R111, R147). -/
theorem qdivOp_of_zero (a b : Word) (hb : b.toNat = 0) : qdivOp a b = raise .divisorZero := if_pos hb

/-- QDIV whose quotient is above MAX_UQINT (R111). -/
theorem qdivOp_of_overflow (a b : Word) (hb : b.toNat ≠ 0) (h : b.toNat * 2 ^ 128 ≤ a.toNat) :
    qdivOp a b = raise .divisionOverflow := by
  rw [qdivOp, if_neg hb, maxUq_eq, if_pos ((quotient_overflows_iff _ hb).2 h)]

/-- QDIV whose quotient fits; its divisor is not zero (R111). -/
theorem qdivOp_of_fits (a b : Word) (h : a.toNat < b.toNat * 2 ^ 128) :
    qdivOp a b = succeed (a.toNat * 2 ^ 64 / b.toNat) := by
  have hb : b.toNat ≠ 0 := by omega
  rw [qdivOp, if_neg hb, maxUq_eq, if_neg fun hc => h.not_ge ((quotient_overflows_iff _ hb).1 hc)]

/-- A quotient that fits is not cut off. -/
theorem qdivOp_toNat_of_fits (a b : Word) (h : a.toNat < b.toNat * 2 ^ 128) :
    (qdivOp a b).result.toNat = a.toNat * 2 ^ 64 / b.toNat := by
  have hquot := quotient_overflows_iff a.toNat (b := b.toNat) (by omega)
  rw [qdivOp_of_fits a b h, succeed_result, toNat_ofNat_of_lt _ (by omega)]

/-- QDIV succeeds exactly when its dividend is below b * 2^128 (R111, R112). -/
theorem qdivOp_ok_iff (a b : Word) : (qdivOp a b).status = .ok ↔ a.toNat < b.toNat * 2 ^ 128 := by
  rcases Nat.lt_or_ge a.toNat (b.toNat * 2 ^ 128) with h | h
  · rw [qdivOp_of_fits a b h, succeed_status]
    exact iff_of_true rfl h
  · refine iff_of_false ?_ h.not_gt
    by_cases hb : b.toNat = 0
    · rw [qdivOp_of_zero a b hb, raise_status]
      decide
    · rw [qdivOp_of_overflow a b hb h, raise_status]
      decide

/-- STS = 7 of a QDIV by a divisor that is not zero says exactly that it overflowed (R112, R140). -/
theorem qdivOp_code_eq_seven_iff (a b : Word) (hb : b.toNat ≠ 0) :
    (qdivOp a b).status.code = 7 ↔ b.toNat * 2 ^ 128 ≤ a.toNat := by
  rcases Nat.lt_or_ge a.toNat (b.toNat * 2 ^ 128) with h | h
  · rw [qdivOp_of_fits a b h, succeed_status]
    exact iff_of_false (by decide) h.not_ge
  · rw [qdivOp_of_overflow a b hb h, raise_status]
    exact iff_of_true rfl h

/-! ## What follows from the cases -/

/-- A quotient that fits is below the exact one by less than one unit (R114). -/
theorem qdivOp_encloses_of_fits (a b : Word) (h : a.toNat < b.toNat * 2 ^ 128) :
    (qdivOp a b).result.toNat * b.toNat ≤ a.toNat * 2 ^ 64 ∧
    a.toNat * 2 ^ 64 < ((qdivOp a b).result.toNat + 1) * b.toNat := by
  rw [qdivOp_toNat_of_fits a b h]
  refine ⟨Nat.div_mul_le_self _ _, ?_⟩
  rw [Nat.mul_comm _ b.toNat]
  exact Nat.lt_mul_div_succ _ (by omega)

/-- The quotient by ONE undoes the scaling of the dividend, and no dividend overflows (R113). -/
theorem qdivOp_one (a : Word) : qdivOp a (BitVec.ofNat 192 (2 ^ 64)) = succeed a.toNat := by
  have hone : (BitVec.ofNat 192 (2 ^ 64)).toNat = 2 ^ 64 := toNat_ofNat_of_lt _ (by decide)
  have hfits : a.toNat < (BitVec.ofNat 192 (2 ^ 64)).toNat * 2 ^ 128 := by
    rw [hone]
    exact a.isLt
  rw [qdivOp_of_fits a _ hfits, hone, Nat.mul_div_cancel _ (by decide)]

/-! ## Tier 2 -/

/-- Settles O27: the test on the quotient, cleared of the division and then of the common factor 2^64; MAX_UQINT is at
least b * 2^128 exactly for b below ONE. -/
theorem qdivOverflowBoundary : Obligations.QdivOverflowBoundary := by
  intro a b s hb
  have hseven := qdivOp_code_eq_seven_iff a b hb
  refine ⟨Nat.lt_iff_add_one_le, two_pow_le_quotient_iff a.toNat hb, by omega, _, rfl, hseven, fun hmax => ?_⟩
  exact hseven.trans (by omega)

/-- Settles O28: a success is a quotient that fits, and the quotient by ONE is the dividend. -/
theorem qdivTruncatesTowardZero : Obligations.QdivTruncatesTowardZero := by
  refine ⟨fun a b s t ht hsts => ?_, fun a s => ⟨?_, ?_⟩⟩
  · cases ht
    exact qdivOp_encloses_of_fits a b ((qdivOp_ok_iff a b).1 ((Status.code_eq_zero_iff _).1 hsts))
  · have ha := a.isLt
    omega
  · rw [exec_of_succeed rfl (qdivOp_one a), ofNat_toNat_word]

/-! ## Tier 1 -/

/-- Settles O26, by whether b is zero and whether the quotient fits. -/
theorem qdivDividesOrFails : Obligations.QdivDividesOrFails := by
  intro a b s
  refine ⟨decode_command (.qdiv a b), quotient_overflows_iff a.toNat, fun hb => ?_, fun hb h => ?_, fun hb h => ?_⟩
  · exact exec_of_raise rfl (qdivOp_of_zero a b hb)
  · exact exec_of_raise rfl (qdivOp_of_overflow a b hb ((quotient_overflows_iff _ hb).1 h))
  · have hfits : a.toNat < b.toNat * 2 ^ 128 :=
      Nat.lt_of_not_le fun hc => h.not_gt ((quotient_overflows_iff _ hb).2 hc)
    exact exec_of_succeed rfl (qdivOp_of_fits a b hfits)

/-- Settles O29: QDIV 1, 0 has the status DivisorZero and QDIV 0, 1 succeeds, and MAX_UQINT is at least 1 * 2^128. -/
theorem qdivByZeroFails : Obligations.QdivByZeroFails := by
  refine fun s => ⟨fun a => exec_of_raise rfl (qdivOp_of_zero a 0 rfl), ⟨1, 0, fun h => ?_⟩, ?_⟩
  · have hcode : (qdivOp 1 0).status.code = (qdivOp 0 1).status.code :=
      congrArg State.sts (Host.Outcome.next.inj h)
    exact absurd hcode (by decide)
  · exact exec_of_raise rfl (qdivOp_of_overflow _ 1 (by decide) (by decide))

end Sys2Proof.Proofs

/-! # Proofs for the family of `45_pow.md`

QPOW's loop against the closed sequences of `Safety.lean` (R121). `workAt` gives the working registers before each turn
without the loop; one turn leads from `workAt` at i to `workAt` at i + 1 or stops on a product that does not fit, and so
a run ends in `workAt` at the bit length of e exactly when `PowFits` (`powRun_cases`). The result (R121, R122), the counts
(R123, R126), the bound by the exact power (R124) and the identities (R125) are read off there. -/

namespace Sys2Proof.Proofs

open Sys2Proof.Machine Sys2Proof.Safety

/-! ## The working registers without the loop (R121, R123) -/

/-- The squarings of a run that meets no overflow (R123). -/
def squaringsOf : PowVariant → Nat → Nat
  | .rtlGuarded, e => e.size - 1
  | .rtlUnguarded, e => e.size

/-- The number of set bits of e below bit i: the accumulator products made before turn i (R123). -/
def setBitsBelow (e i : Nat) : Nat := (List.range i).countP fun j => e.testBit j

/-- The working registers before turn i, if no product before it overflows. Turns square from the first one on, so only
the last turn of an RTL_GUARDED run makes no squaring. -/
def workAt (v : PowVariant) (base e i : Nat) : PowWork where
  acc := accAt base e i
  b := squareAt base (min i (squaringsOf v e))
  k := e / 2 ^ i
  products := setBitsBelow e i
  squarings := min i (squaringsOf v e)

/-- The working registers in the middle of turn i: bit i is taken, the base is not yet squared. -/
def bitTakenAt (base e i : Nat) : PowWork where
  acc := accAt base e (i + 1)
  b := squareAt base i
  k := e / 2 ^ (i + 1)
  products := setBitsBelow e (i + 1)
  squarings := i

/-- The products of turn i are below 2^256: what `PowFits` says of one bit. -/
def TurnFits (v : PowVariant) (base e i : Nat) : Prop :=
  (e.testBit i = true → accAt base e i * squareAt base i < 2 ^ 256) ∧
  (i + 1 < e.size ∨ v = .rtlUnguarded → squareAt base i * squareAt base i < 2 ^ 256)

/-- A run made no more calls than one without overflow makes (R123). -/
def CallsWithin (v : PowVariant) (e : Nat) (w : PowWork) : Prop :=
  w.products ≤ setBits e ∧ w.squarings ≤ squaringsOf v e

theorem powFits_iff (v : PowVariant) (base e : Nat) : PowFits v base e ↔ ∀ i < e.size, TurnFits v base e i :=
  Iff.rfl

theorem squaringsOf_le_size (v : PowVariant) (e : Nat) : squaringsOf v e ≤ e.size := by
  cases v with
  | rtlGuarded => exact Nat.sub_le _ _
  | rtlUnguarded => exact le_rfl

theorem setBitsBelow_succ (e i : Nat) : setBitsBelow e (i + 1) = setBitsBelow e i + if e.testBit i then 1 else 0 := by
  rw [setBitsBelow, List.range_succ, List.countP_append, List.countP_singleton, setBitsBelow]

theorem setBitsBelow_succ_of_set {e i : Nat} (h : e.testBit i = true) :
    setBitsBelow e (i + 1) = setBitsBelow e i + 1 := by
  rw [setBitsBelow_succ, if_pos h]

theorem setBitsBelow_succ_of_clear {e i : Nat} (h : ¬ e.testBit i = true) :
    setBitsBelow e (i + 1) = setBitsBelow e i := by
  rw [setBitsBelow_succ, if_neg h, Nat.add_zero]

theorem setBitsBelow_le_setBits {e i : Nat} (h : i ≤ e.size) : setBitsBelow e i ≤ setBits e :=
  (List.range_sublist.2 h).countP_le

theorem setBits_le_size (e : Nat) : setBits e ≤ e.size :=
  List.countP_le_length.trans_eq List.length_range

theorem accAt_succ_of_set {base e i : Nat} (h : e.testBit i = true) :
    accAt base e (i + 1) = accAt base e i * squareAt base i / 2 ^ 64 := if_pos h

theorem accAt_succ_of_clear {base e i : Nat} (h : ¬ e.testBit i = true) :
    accAt base e (i + 1) = accAt base e i := if_neg h

/-! ## The exponent, bit by bit -/

theorem testBit_iff_div_mod (e i : Nat) : e.testBit i = true ↔ e / 2 ^ i % 2 = 1 := by
  rw [Nat.testBit_eq_decide_div_mod_eq, decide_eq_true_iff]

theorem div_two_pow_succ (e i : Nat) : e / 2 ^ (i + 1) = e / 2 ^ i / 2 := by
  rw [pow_succ, Nat.div_div_eq_div_mul]

/-- Exponent bits remain before turn i exactly when i is below the bit length. -/
theorem div_two_pow_ne_zero_iff (e i : Nat) : e / 2 ^ i ≠ 0 ↔ i < e.size := by
  rw [Nat.lt_size, Nat.div_ne_zero_iff]
  simp

theorem bitTakenAt_k_ne_zero_iff (base e i : Nat) : (bitTakenAt base e i).k ≠ 0 ↔ i + 1 < e.size :=
  div_two_pow_ne_zero_iff e (i + 1)

theorem size_toNat_le (e : Word) : e.toNat.size ≤ 192 := Nat.size_le.2 e.isLt

/-! ## One turn of the loop -/

theorem powSquare_of_fits (w : PowWork) (h : w.b * w.b < 2 ^ 256) :
    powSquare w = .ok { w with b := w.b * w.b / 2 ^ 64, squarings := w.squarings + 1 } :=
  (powSquare_cases w).elim And.right fun hc => absurd h hc.1.not_gt

theorem powSquare_of_overflow (w : PowWork) (h : 2 ^ 256 ≤ w.b * w.b) :
    powSquare w = .error { w with squarings := w.squarings + 1 } :=
  (powSquare_cases w).elim (fun hc => absurd h hc.1.not_ge) And.right

section Turn
variable (v : PowVariant) (base : Nat) {e i : Nat} (hi : i < e.size)
include hi

/-- Every turn but the last of an RTL_GUARDED run squares. -/
theorem squares_iff : i + 1 < e.size ∨ v = .rtlUnguarded ↔ i < squaringsOf v e := by
  cases v with
  | rtlGuarded => simp only [squaringsOf, reduceCtorEq, or_false]; omega
  | rtlUnguarded => exact iff_of_true (.inr rfl) hi

/-- Every turn before turn i squared. -/
theorem le_squaringsOf : i ≤ squaringsOf v e := by
  cases v with
  | rtlGuarded => exact Nat.le_sub_one_of_lt hi
  | rtlUnguarded => exact hi.le

theorem workAt_eq : workAt v base e i = ⟨accAt base e i, squareAt base i, e / 2 ^ i, setBitsBelow e i, i⟩ := by
  rw [workAt, min_eq_left (le_squaringsOf v hi)]

/-- After a turn that squares. -/
theorem workAt_succ_of_square (hsq : i + 1 < e.size ∨ v = .rtlUnguarded) :
    workAt v base e (i + 1) = { bitTakenAt base e i with b := squareAt base (i + 1), squarings := i + 1 } := by
  rw [workAt, min_eq_left ((squares_iff v hi).1 hsq), bitTakenAt]

/-- After a turn that does not square. -/
theorem workAt_succ_of_rest (hsq : ¬(i + 1 < e.size ∨ v = .rtlUnguarded)) :
    workAt v base e (i + 1) = bitTakenAt base e i := by
  have hmade : squaringsOf v e = i :=
    (Nat.le_of_not_lt (mt (squares_iff v hi).2 hsq)).antisymm (le_squaringsOf v hi)
  rw [workAt, hmade, min_eq_right (Nat.le_succ i), bitTakenAt]

/-- The first half of turn i: bit i is clear, or its accumulator product fits. -/
theorem powBit_workAt_of_fits (h : e.testBit i = true → accAt base e i * squareAt base i < 2 ^ 256) :
    powBit (workAt v base e i) = .ok (bitTakenAt base e i) := by
  rw [workAt_eq v base hi, bitTakenAt, div_two_pow_succ]
  by_cases hbit : e.testBit i = true
  · rw [powBit_of_product _ ((testBit_iff_div_mod e i).1 hbit) (h hbit), accAt_succ_of_set hbit,
      setBitsBelow_succ_of_set hbit]
  · rw [powBit_of_zero _ (mt (testBit_iff_div_mod e i).2 hbit), accAt_succ_of_clear hbit,
      setBitsBelow_succ_of_clear hbit]

/-- The first half of turn i: the accumulator product of a set bit overflows. -/
theorem powBit_workAt_of_overflow (hbit : e.testBit i = true) (h : 2 ^ 256 ≤ accAt base e i * squareAt base i) :
    ∃ w, powBit (workAt v base e i) = .error w ∧ CallsWithin v e w := by
  have hproducts : setBitsBelow e i + 1 ≤ setBits e :=
    (setBitsBelow_succ_of_set hbit).symm.trans_le (setBitsBelow_le_setBits hi)
  rw [workAt_eq v base hi]
  exact ⟨_, powBit_of_overflow _ ((testBit_iff_div_mod e i).1 hbit) h, hproducts, le_squaringsOf v hi⟩

/-- The second half of turn i where its squaring, if one is due, fits. -/
theorem powTurn_workAt_of_fits (hbit : powBit (workAt v base e i) = .ok (bitTakenAt base e i))
    (h : i + 1 < e.size ∨ v = .rtlUnguarded → squareAt base i * squareAt base i < 2 ^ 256) :
    powTurn v (workAt v base e i) = .ok (workAt v base e (i + 1)) := by
  by_cases hsq : i + 1 < e.size ∨ v = .rtlUnguarded
  · rw [powTurn_of_square v _ _ hbit (hsq.imp_left (bitTakenAt_k_ne_zero_iff base e i).2),
      workAt_succ_of_square v base hi hsq]
    exact powSquare_of_fits _ (h hsq)
  · rw [powTurn_of_rest v _ _ hbit fun hc => hsq (hc.imp_left (bitTakenAt_k_ne_zero_iff base e i).1),
      workAt_succ_of_rest v base hi hsq]

/-- The second half of turn i where a squaring is due and overflows. -/
theorem powTurn_workAt_of_overflow (hbit : powBit (workAt v base e i) = .ok (bitTakenAt base e i))
    (hsq : i + 1 < e.size ∨ v = .rtlUnguarded) (h : 2 ^ 256 ≤ squareAt base i * squareAt base i) :
    ∃ w, powTurn v (workAt v base e i) = .error w ∧ CallsWithin v e w := by
  rw [powTurn_of_square v _ _ hbit (hsq.imp_left (bitTakenAt_k_ne_zero_iff base e i).2)]
  exact ⟨_, powSquare_of_overflow _ h, setBitsBelow_le_setBits hi, (squares_iff v hi).1 hsq⟩

/-- All that turn i can do: go on, or stop at a product that does not fit. -/
theorem powTurn_workAt_cases :
    (TurnFits v base e i ∧ powTurn v (workAt v base e i) = .ok (workAt v base e (i + 1))) ∨
    (¬ TurnFits v base e i ∧ ∃ w, powTurn v (workAt v base e i) = .error w ∧ CallsWithin v e w) := by
  by_cases hp : e.testBit i = true → accAt base e i * squareAt base i < 2 ^ 256
  · have hbit := powBit_workAt_of_fits v base hi hp
    by_cases hs : i + 1 < e.size ∨ v = .rtlUnguarded → squareAt base i * squareAt base i < 2 ^ 256
    · exact .inl ⟨⟨hp, hs⟩, powTurn_workAt_of_fits v base hi hbit hs⟩
    · obtain ⟨hsq, hover⟩ := Classical.not_imp.1 hs
      exact .inr ⟨fun hfits => hs hfits.2, powTurn_workAt_of_overflow v base hi hbit hsq (Nat.le_of_not_lt hover)⟩
  · obtain ⟨hset, hover⟩ := Classical.not_imp.1 hp
    obtain ⟨w, hw, hcalls⟩ := powBit_workAt_of_overflow v base hi hset (Nat.le_of_not_lt hover)
    exact .inr ⟨fun hfits => hp hfits.1, w, powTurn_of_overflow v _ w hw, hcalls⟩

end Turn

/-! ## The whole loop -/

theorem powLoop_of_turn {v : PowVariant} {fuel : Nat} {w w' : PowWork} (hk : w.k ≠ 0) (h : powTurn v w = .ok w') :
    powLoop v (fuel + 1) w = powLoop v fuel w' := by
  rw [powLoop_succ v fuel w hk, h]

theorem powLoop_of_overflow {v : PowVariant} {fuel : Nat} {w w' : PowWork} (hk : w.k ≠ 0)
    (h : powTurn v w = .error w') : powLoop v (fuel + 1) w = .error w' := by
  rw [powLoop_succ v fuel w hk, h]

/-- After the highest bit of e no exponent bit remains, so the loop is over. -/
theorem workAt_size_k (v : PowVariant) (base e : Nat) : (workAt v base e e.size).k = 0 :=
  Nat.div_eq_of_lt e.lt_size_self

/-- All that the loop can do from turn i on, given a turn for each bit left. -/
theorem powLoop_workAt_cases (v : PowVariant) (base e : Nat) {fuel i : Nat} (hi : i ≤ e.size)
    (hfuel : e.size ≤ i + fuel) :
    ((∀ j, i ≤ j → j < e.size → TurnFits v base e j) ∧
      powLoop v fuel (workAt v base e i) = .ok (workAt v base e e.size)) ∨
    ((∃ j < e.size, ¬ TurnFits v base e j) ∧
      ∃ w, powLoop v fuel (workAt v base e i) = .error w ∧ CallsWithin v e w) := by
  induction fuel generalizing i with
  | zero =>
    obtain rfl : i = e.size := hi.antisymm hfuel
    exact .inl ⟨fun j hij hj => absurd hj hij.not_gt, rfl⟩
  | succ fuel ih =>
    rcases hi.eq_or_lt with rfl | hlt
    · exact .inl ⟨fun j hij hj => absurd hj hij.not_gt, powLoop_done v _ _ (workAt_size_k v base e)⟩
    have hk : (workAt v base e i).k ≠ 0 := (div_two_pow_ne_zero_iff e i).2 hlt
    rcases powTurn_workAt_cases v base hlt with ⟨hfits, hturn⟩ | ⟨hover, w, hturn, hcalls⟩
    · rw [powLoop_of_turn hk hturn]
      refine (ih hlt (by omega)).imp_left fun ⟨hrest, hloop⟩ => ⟨fun j hij hj => ?_, hloop⟩
      rcases hij.eq_or_lt with rfl | hlater
      · exact hfits
      · exact hrest j hlater hj
    · exact .inr ⟨⟨i, hlt, hover⟩, w, powLoop_of_overflow hk hturn, hcalls⟩

/-- The registers before the first turn are those of R121. -/
theorem workAt_zero (v : PowVariant) (base e : Nat) : workAt v base e 0 = PowWork.start base e := by
  rw [workAt, Nat.zero_min, pow_zero, Nat.div_one]
  rfl

/-- All that a run can do (R121, R123): end after the highest bit of e, or stop at an overflow. -/
theorem powRun_cases (v : PowVariant) (base e : Word) :
    (PowFits v base.toNat e.toNat ∧ powRun v base e = .ok (workAt v base.toNat e.toNat e.toNat.size)) ∨
    (¬ PowFits v base.toNat e.toNat ∧ ∃ w, powRun v base e = .error w ∧ CallsWithin v e.toNat w) := by
  have hloop := powLoop_workAt_cases v base.toNat e.toNat (fuel := 192) (Nat.zero_le _)
    ((size_toNat_le e).trans_eq (Nat.zero_add 192).symm)
  rw [workAt_zero] at hloop
  rcases hloop with ⟨hfits, hrun⟩ | ⟨⟨j, hj, hover⟩, hrun⟩
  · exact .inl ⟨(powFits_iff ..).2 fun j => hfits j (Nat.zero_le j), hrun⟩
  · exact .inr ⟨fun hfits => hover ((powFits_iff ..).1 hfits j hj), hrun⟩

theorem powRun_eq_ok {v : PowVariant} {base e : Word} {w : PowWork} (h : powRun v base e = .ok w) :
    w = workAt v base.toNat e.toNat e.toNat.size := by
  rcases powRun_cases v base e with ⟨_, hrun⟩ | ⟨_, _, hrun, _⟩ <;> rw [hrun] at h
  · exact (Except.ok.inj h).symm
  · cases h

theorem powRun_eq_error {v : PowVariant} {base e : Word} {w : PowWork} (h : powRun v base e = .error w) :
    CallsWithin v e.toNat w := by
  rcases powRun_cases v base e with ⟨_, hrun⟩ | ⟨_, _, hrun, hcalls⟩ <;> rw [hrun] at h
  · cases h
  · exact Except.error.inj h ▸ hcalls

/-! ## The counts (R123, R126) -/

theorem workAt_size_products (v : PowVariant) (base e : Nat) : (workAt v base e e.size).products = setBits e := rfl

theorem workAt_size_squarings (v : PowVariant) (base e : Nat) : (workAt v base e e.size).squarings = squaringsOf v e :=
  min_eq_right (squaringsOf_le_size v e)

theorem powCalls_le (v : PowVariant) (base e : Word) :
    (powCalls v base e).1 ≤ setBits e.toNat ∧ (powCalls v base e).2 ≤ squaringsOf v e.toNat := by
  unfold powCalls
  split
  next w h =>
    rw [powRun_eq_ok h]
    exact ⟨le_rfl, (workAt_size_squarings v base.toNat e.toNat).le⟩
  next w h => exact powRun_eq_error h

/-! ## The operation by cases -/

/-- QPOW whose products all fit (R121). -/
theorem qpowOp_of_fits (v : PowVariant) (base e : Word) (h : PowFits v base.toNat e.toNat) :
    qpowOp v base e = succeed (accAt base.toNat e.toNat e.toNat.size) := by
  rcases powRun_cases v base e with ⟨_, hrun⟩ | ⟨hover, _⟩
  · rw [qpowOp, hrun]
    rfl
  · exact absurd h hover

/-- QPOW with a product that overflows (R120, R121). -/
theorem qpowOp_of_overflow (v : PowVariant) (base e : Word) (h : ¬ PowFits v base.toNat e.toNat) :
    qpowOp v base e = raise .exponentiationOverflow := by
  rcases powRun_cases v base e with ⟨hfits, _⟩ | ⟨_, w, hrun, _⟩
  · exact absurd hfits h
  · rw [qpowOp, hrun]

/-- QPOW succeeds exactly when no product of its schedule overflows (R123). -/
theorem qpowOp_ok_iff (v : PowVariant) (base e : Word) :
    (qpowOp v base e).status = .ok ↔ PowFits v base.toNat e.toNat := by
  by_cases h : PowFits v base.toNat e.toNat
  · rw [qpowOp_of_fits v base e h, succeed_status]
    exact iff_of_true rfl h
  · rw [qpowOp_of_overflow v base e h, raise_status]
    exact iff_of_false (by decide) h

/-- Where the products fit, the accumulator is a UQ value at every turn. -/
theorem accAt_lt_of_fits {v : PowVariant} {base e : Nat} (h : PowFits v base e) :
    ∀ {i : Nat}, i ≤ e.size → accAt base e i < 2 ^ 192
  | 0, _ => by rw [accAt]; decide
  | i + 1, hi => by
    by_cases hbit : e.testBit i = true
    · rw [accAt_succ_of_set hbit]
      have hproduct := (h i hi).1 hbit
      omega
    · rw [accAt_succ_of_clear hbit]
      exact accAt_lt_of_fits h (Nat.le_of_succ_le hi)

/-! ## The bound by the exact power (R124) -/

/-- The UQ value x is at most the exact power base^n / 2^(64(n-1)), cleared of the division. -/
def AtMostPower (base x n : Nat) : Prop := x * 2 ^ (64 * n) ≤ base ^ n * 2 ^ 64

/-- A rescaled product is at most the product of the powers: truncation only lowers it (R104). -/
theorem AtMostPower.rescaled_mul {base x y m n : Nat} (hx : AtMostPower base x m) (hy : AtMostPower base y n) :
    AtMostPower base (x * y / 2 ^ 64) (m + n) := by
  refine Nat.le_of_mul_le_mul_right (c := 2 ^ 64) ?_ (by decide)
  calc x * y / 2 ^ 64 * 2 ^ (64 * (m + n)) * 2 ^ 64
      = x * y / 2 ^ 64 * 2 ^ 64 * (2 ^ (64 * m) * 2 ^ (64 * n)) := by
        rw [Nat.mul_add, pow_add, Nat.mul_right_comm]
    _ ≤ x * y * (2 ^ (64 * m) * 2 ^ (64 * n)) := Nat.mul_le_mul_right _ (Nat.div_mul_le_self _ _)
    _ = x * 2 ^ (64 * m) * (y * 2 ^ (64 * n)) := Nat.mul_mul_mul_comm _ _ _ _
    _ ≤ base ^ m * 2 ^ 64 * (base ^ n * 2 ^ 64) := Nat.mul_le_mul hx hy
    _ = base ^ (m + n) * 2 ^ 64 * 2 ^ 64 := by
        rw [pow_add, Nat.mul_mul_mul_comm, Nat.mul_assoc _ (2 ^ 64) (2 ^ 64)]

theorem squareAt_atMostPower (base : Nat) : ∀ i, AtMostPower base (squareAt base i) (2 ^ i)
  | 0 => by rw [AtMostPower, squareAt, pow_zero, pow_one, Nat.mul_one]
  | i + 1 => by
    rw [pow_succ, Nat.mul_two]
    exact (squareAt_atMostPower base i).rescaled_mul (squareAt_atMostPower base i)

/-- The accumulator before bit i is at most the power by the bits of e below i. -/
theorem accAt_atMostPower (base e : Nat) : ∀ i, AtMostPower base (accAt base e i) (e % 2 ^ i)
  | 0 => by rw [pow_zero, Nat.mod_one]; exact (Nat.mul_comm _ _).le
  | i + 1 => by
    rw [Nat.mod_pow_succ]
    by_cases hbit : e.testBit i = true
    · rw [accAt_succ_of_set hbit, (testBit_iff_div_mod e i).1 hbit, Nat.mul_one]
      exact (accAt_atMostPower base e i).rescaled_mul (squareAt_atMostPower base i)
    · have hclear : e / 2 ^ i % 2 = 0 := Nat.mod_two_ne_one.1 (mt (testBit_iff_div_mod e i).2 hbit)
      rw [accAt_succ_of_clear hbit, hclear, Nat.mul_zero, Nat.add_zero]
      exact accAt_atMostPower base e i

/-- The accumulator after the highest bit of e is at most the power by e. -/
theorem accAt_size_atMostPower (base e : Nat) : AtMostPower base (accAt base e e.size) e := by
  have h := accAt_atMostPower base e e.size
  rwa [Nat.mod_eq_of_lt e.lt_size_self] at h

/-! ## Bases and exponents with a known result (R122, R125) -/

/-- With no exponent bit there is no product. -/
theorem powFits_zero_exponent (v : PowVariant) (base : Nat) : PowFits v base 0 :=
  fun i hi => absurd hi (Nat.not_lt_zero i)

theorem squareAt_one_eq : ∀ i, squareAt (2 ^ 64) i = 2 ^ 64
  | 0 => rfl
  | i + 1 => by rw [squareAt, squareAt_one_eq i, Nat.mul_div_cancel _ (by decide)]

theorem accAt_one_eq (e : Nat) : ∀ i, accAt (2 ^ 64) e i = 2 ^ 64
  | 0 => rfl
  | i + 1 => by rw [accAt, accAt_one_eq e i, squareAt_one_eq, Nat.mul_div_cancel _ (by decide), ite_self]

theorem powFits_one_base (v : PowVariant) (e : Nat) : PowFits v (2 ^ 64) e := by
  intro i _
  rw [accAt_one_eq, squareAt_one_eq]
  exact ⟨fun _ => by decide, fun _ => by decide⟩

theorem squareAt_zero_eq : ∀ i, squareAt 0 i = 0
  | 0 => rfl
  | i + 1 => by rw [squareAt, squareAt_zero_eq i, Nat.zero_mul, Nat.zero_div]

theorem powFits_zero_base (v : PowVariant) (e : Nat) : PowFits v 0 e := by
  intro i _
  rw [squareAt_zero_eq, Nat.mul_zero]
  exact ⟨fun _ => by decide, fun _ => by decide⟩

/-- Zero to a positive power is 0, since nothing above 0 is at most 0^e. -/
theorem accAt_zero_base {e : Nat} (he : 1 ≤ e) : accAt 0 e e.size = 0 := by
  have hbound : accAt 0 e e.size * 2 ^ (64 * e) ≤ 0 ^ e * 2 ^ 64 := accAt_size_atMostPower 0 e
  rw [Nat.zero_pow he, Nat.zero_mul] at hbound
  exact (Nat.mul_eq_zero.1 (Nat.le_zero.1 hbound)).resolve_right (Nat.two_pow_pos _).ne'

/-- With the exponent 1 RTL_GUARDED makes one product, of ONE and the base. -/
theorem powFits_guarded_one {base : Nat} (h : base < 2 ^ 192) : PowFits .rtlGuarded base 1 := by
  intro i hi
  obtain rfl : i = 0 := Nat.lt_one_iff.1 hi
  refine ⟨fun _ => ?_, fun hsq => absurd hsq (by decide)⟩
  rw [accAt, squareAt]
  omega

theorem accAt_exponent_one (base : Nat) : accAt base 1 (Nat.size 1) = base :=
  Nat.mul_div_cancel_left base (Nat.two_pow_pos 64)

theorem accAt_exponent_two (base : Nat) : accAt base 2 (Nat.size 2) = base * base / 2 ^ 64 :=
  Nat.mul_div_cancel_left _ (Nat.two_pow_pos 64)

/-- With the exponent 2 RTL_GUARDED squares the base once and multiplies ONE by the square, which then fits. -/
theorem powFits_guarded_two_iff (base : Nat) : PowFits .rtlGuarded base 2 ↔ base * base < 2 ^ 256 := by
  have hsize : Nat.size 2 = 2 := Nat.size_pow (n := 1)
  refine ⟨fun h => (h 0 (by decide)).2 (by decide), fun h i hi => ?_⟩
  rw [hsize] at hi
  rcases Nat.le_one_iff_eq_zero_or_eq_one.1 (Nat.le_of_lt_succ hi) with rfl | rfl
  · exact ⟨fun hset => absurd hset (by decide), fun _ => h⟩
  · refine ⟨fun _ => ?_, fun hsq => absurd hsq (by decide)⟩
    change 2 ^ 64 * (base * base / 2 ^ 64) < 2 ^ 256
    omega

theorem qpowOp_one_guarded {v : PowVariant} (hv : v = .rtlGuarded) (x : Word) : qpowOp v x 1 = succeed x.toNat := by
  subst hv
  exact (qpowOp_of_fits _ x 1 (powFits_guarded_one x.isLt)).trans (congrArg succeed (accAt_exponent_one x.toNat))

theorem qpowOp_two_guarded_of_fits {v : PowVariant} (hv : v = .rtlGuarded) (x : Word)
    (h : x.toNat * x.toNat < 2 ^ 256) : qpowOp v x 2 = succeed (x.toNat * x.toNat / 2 ^ 64) := by
  subst hv
  rw [← accAt_exponent_two x.toNat]
  exact qpowOp_of_fits _ x 2 ((powFits_guarded_two_iff x.toNat).2 h)

theorem qpowOp_two_guarded_of_overflow {v : PowVariant} (hv : v = .rtlGuarded) (x : Word)
    (h : 2 ^ 256 ≤ x.toNat * x.toNat) : qpowOp v x 2 = raise .exponentiationOverflow := by
  subst hv
  exact qpowOp_of_overflow _ x 2 fun hfits => ((powFits_guarded_two_iff x.toNat).1 hfits).not_ge h

/-- Under RTL_UNGUARDED QPOW x, 1 fails where the unused square of x overflows (R123). -/
theorem qpowOp_one_unguarded {v : PowVariant} (hv : v = .rtlUnguarded) (x : Word)
    (h : 2 ^ 256 ≤ squareAt x.toNat 0 * squareAt x.toNat 0) : qpowOp v x 1 = raise .exponentiationOverflow :=
  qpowOp_of_overflow v x 1 fun hfits => ((hfits 0 (by decide)).2 (.inr hv)).not_ge h

/-- Under RTL_UNGUARDED QPOW x, 2 fails where the unused second square of x overflows (R123). -/
theorem qpowOp_two_unguarded {v : PowVariant} (hv : v = .rtlUnguarded) (x : Word)
    (h : 2 ^ 256 ≤ squareAt x.toNat 1 * squareAt x.toNat 1) : qpowOp v x 2 = raise .exponentiationOverflow :=
  qpowOp_of_overflow v x 2 fun hfits => ((hfits 1 (by decide)).2 (.inr hv)).not_ge h

/-- QPOW ONE, e is ONE (R125). -/
theorem qpowOp_one_base (v : PowVariant) (e : Word) : qpowOp v (BitVec.ofNat 192 (2 ^ 64)) e = succeed (2 ^ 64) := by
  have hone : (BitVec.ofNat 192 (2 ^ 64)).toNat = 2 ^ 64 := toNat_ofNat_of_lt _ (by decide)
  rw [qpowOp_of_fits v _ e (hone ▸ powFits_one_base v e.toNat), hone, accAt_one_eq]

/-- QPOW 0, e is 0 for a positive exponent (R125). -/
theorem qpowOp_zero_base (v : PowVariant) (e : Word) (he : 1 ≤ e.toNat) : qpowOp v 0 e = succeed 0 :=
  (qpowOp_of_fits v 0 e (powFits_zero_base v e.toNat)).trans (congrArg succeed (accAt_zero_base he))

/-! ## Tier 2 -/

/-- Settles O30, by whether a product of the schedule overflows. -/
theorem qpowFollowsSchedule : Obligations.QpowFollowsSchedule := by
  intro base e s
  refine ⟨decode_command (.qpow base e), fun h => ⟨?_, ?_⟩, fun h => ?_⟩
  · exact Nat.le_sub_one_of_lt (accAt_lt_of_fits h le_rfl)
  · exact exec_of_succeed rfl (qpowOp_of_fits _ base e h)
  · exact exec_of_raise rfl (qpowOp_of_overflow _ base e h)

/-- Settles O32: a run without overflow ends in `workAt`, and one that overflows is within its counts. -/
theorem qpowCallCounts : Obligations.QpowCallCounts := by
  refine fun base e => ⟨fun w h => ?_, fun w h => ?_, fun w h => ?_, fun w h => ?_⟩
  · rw [powRun_eq_ok h]
    exact ⟨workAt_size_products .rtlGuarded _ _, workAt_size_squarings .rtlGuarded _ _⟩
  · rw [powRun_eq_ok h]
    exact ⟨workAt_size_products .rtlUnguarded _ _, workAt_size_squarings .rtlUnguarded _ _⟩
  · exact powRun_eq_error h
  · exact powRun_eq_error h

/-- Settles O33: a success is the accumulator, which every product keeps at most the power by the bits taken. -/
theorem qpowNeverAboveExactPower : Obligations.QpowNeverAboveExactPower := by
  intro base e s t ht hsts
  cases ht
  have hfits := (qpowOp_ok_iff s.cfg.powVariant base e).1 ((Status.code_eq_zero_iff _).1 hsts)
  have hres : (qpowOp s.cfg.powVariant base e).result.toNat = accAt base.toNat e.toNat e.toNat.size := by
    rw [qpowOp_of_fits _ base e hfits, succeed_result, toNat_ofNat_of_lt _ (accAt_lt_of_fits hfits le_rfl)]
  exact (congrArg (· * 2 ^ (64 * e.toNat)) hres).trans_le (accAt_size_atMostPower base.toNat e.toNat)

/-- Settles O34: each identity is a response that is known; under RTL_UNGUARDED the unused last squares
(2^192 - 1)^2 and 2^144 * 2^144 overflow. -/
theorem qpowIdentities : Obligations.QpowIdentities := by
  refine ⟨fun x s hv => ⟨?_, ?_⟩, fun e s => ⟨?_, fun he => ?_⟩, fun s hv => ⟨?_, ?_, ?_⟩⟩
  · rw [exec_of_succeed rfl (qpowOp_one_guarded hv x), ofNat_toNat_word]
  · rcases Nat.lt_or_ge (x.toNat * x.toNat) (2 ^ 256) with h | h
    · exact ⟨_, _, exec_of_succeed rfl (qpowOp_two_guarded_of_fits hv x h),
        exec_of_succeed rfl (qmulOp_of_fits x x h), rfl, by dsimp only; decide⟩
    · exact ⟨_, _, exec_of_raise rfl (qpowOp_two_guarded_of_overflow hv x h),
        exec_of_raise rfl (qmulOp_of_overflow x x h), rfl, by dsimp only; decide⟩
  · exact exec_of_succeed rfl (qpowOp_one_base _ e)
  · exact exec_of_succeed rfl (qpowOp_zero_base _ e he)
  · exact exec_of_raise rfl (qpowOp_one_unguarded hv _ (by decide))
  · exact exec_of_raise rfl (qpowOp_two_unguarded hv _ (by decide))
  · exact ⟨_, exec_of_succeed rfl (qmulOp_of_fits _ _ (by decide)), rfl⟩

/-- Settles O35: e has at most 192 bits, so 192 turns take them all, with at most one product and one squaring each. -/
theorem qpowIsBounded : Obligations.QpowIsBounded := by
  intro v base e
  have hsize := size_toNat_le e
  refine ⟨fun w h => ?_, ?_, ?_, ?_⟩
  · rw [powRun_eq_ok h, workAt_size_k]
  · exact (powCalls_le v base e).1.trans ((setBits_le_size _).trans hsize)
  · exact (powCalls_le .rtlGuarded base e).2.trans (Nat.sub_le_sub_right hsize 1)
  · exact (powCalls_le .rtlUnguarded base e).2.trans hsize

/-! ## Tier 1 -/

/-- Settles O31: with the exponent 0 no product is formed and the accumulator stays ONE. -/
theorem qpowZeroExponentGivesOne : Obligations.QpowZeroExponentGivesOne := by
  intro base s
  exact exec_of_succeed rfl (qpowOp_of_fits _ base 0 (powFits_zero_exponent _ base.toNat))

end Sys2Proof.Proofs

/-! # Proofs for the family of `60_exceptions.md`

A code says which outcome it stands for (R141); so R140's table, written once as `RaisedWhen`, is proved on the outcomes:
where a row holds EXEC raises its error, and where none holds EXEC succeeds. Then the precise completion of the ten
instructions (R144), the completion of a reserved opcode (R146), and where a step faults. -/

namespace Sys2Proof.Proofs

open Sys2Proof.Machine Sys2Proof.Safety

/-! ## The codes (R140, R141) -/

/-- The outcome a code stands for, which undoes `Status.code`. -/
def statusOfCode (c : StatusWord) : Status :=
  match c.toNat with
  | 0 => .ok
  | 1 => .conversionOverflow
  | 2 => .truncatingDecimals
  | 3 => .additionOverflow
  | 4 => .subtractionUnderflow
  | 5 => .multiplicationOverflow
  | 6 => .divisorZero
  | 7 => .divisionOverflow
  | 8 => .ceilOverflow
  | 9 => .exponentiationOverflow
  | _ => .illegalOpcode

@[simp] theorem statusOfCode_code (e : Status) : statusOfCode e.code = e := by
  cases e <;> rfl

theorem code_injective : Function.Injective Status.code := Function.LeftInverse.injective statusOfCode_code

theorem code_le_nine_iff (e : Status) : e.code.toNat ≤ 9 ↔ e ≠ .illegalOpcode := by
  cases e <;> decide

theorem legalStatus_eq_false_iff (sts : StatusWord) : legalStatus sts = false ↔ 10 ≤ sts.toNat ∧ sts.toNat ≤ 14 := by
  have hwidth := sts.isLt
  rw [← Bool.not_eq_true, legalStatus_iff]
  omega

/-! ## The table of R140 -/

/-- R140: the opcode that raises each error, and its condition. OK is not raised. -/
def RaisedWhen (v : PowVariant) (op : Opcode) (a b : Word) : Status → Prop
  | .ok => False
  | .conversionOverflow => op = 0x01 ∧ 2 ^ 128 - 1 < a.toNat
  | .truncatingDecimals => op = 0x02 ∧ a.toNat % 2 ^ 64 ≠ 0
  | .additionOverflow => op = 0x06 ∧ 2 ^ 192 - 1 < a.toNat + b.toNat
  | .subtractionUnderflow => op = 0x07 ∧ a.toNat < b.toNat
  | .multiplicationOverflow => op = 0x08 ∧ 2 ^ 192 - 1 < a.toNat * b.toNat / 2 ^ 64
  | .divisorZero => op = 0x09 ∧ b.toNat = 0
  | .divisionOverflow => op = 0x09 ∧ b.toNat ≠ 0 ∧ 2 ^ 192 - 1 < a.toNat * 2 ^ 64 / b.toNat
  | .ceilOverflow => op = 0x05 ∧ a.toNat % 2 ^ 64 ≠ 0 ∧ a.toNat / 2 ^ 64 = 2 ^ 128 - 1
  | .exponentiationOverflow => op = 0x0A ∧ ¬ PowFits v a.toNat b.toNat
  | .illegalOpcode => reservedOpcode op

/-- Where a row of the table holds, EXEC raises its error. -/
theorem specExec_of_raisedWhen {v : PowVariant} {op : Opcode} {a b : Word} {e : Status} (h : RaisedWhen v op a b e) :
    specExec v op a b = raise e := by
  cases e with
  | ok => exact h.elim
  | conversionOverflow =>
    obtain ⟨rfl, hlarge⟩ := h
    exact (specExec_inttoq v a b).trans (inttoqOp_of_lt a hlarge)
  | truncatingDecimals =>
    obtain ⟨rfl, hfraction⟩ := h
    exact (specExec_qtoint v a b).trans (qtointOp_of_fraction a hfraction)
  | additionOverflow =>
    obtain ⟨rfl, hcarry⟩ := h
    exact (specExec_qadd v a b).trans (qaddOp_of_carry a b (by omega))
  | subtractionUnderflow =>
    obtain ⟨rfl, hborrow⟩ := h
    exact (specExec_qsub v a b).trans (qsubOp_of_lt a b hborrow)
  | multiplicationOverflow =>
    obtain ⟨rfl, hover⟩ := h
    exact (specExec_qmul v a b).trans (qmulOp_of_overflow a b (by omega))
  | divisorZero =>
    obtain ⟨rfl, hzero⟩ := h
    exact (specExec_qdiv v a b).trans (qdivOp_of_zero a b hzero)
  | divisionOverflow =>
    obtain ⟨rfl, hb, hover⟩ := h
    exact (specExec_qdiv v a b).trans (qdivOp_of_overflow a b hb ((quotient_overflows_iff _ hb).1 hover))
  | ceilOverflow =>
    obtain ⟨rfl, hfraction, htop⟩ := h
    exact (specExec_qceil v a b).trans (qceilOp_of_top a hfraction htop)
  | exponentiationOverflow =>
    obtain ⟨rfl, hover⟩ := h
    exact (specExec_qpow v a b).trans (qpowOp_of_overflow v a b hover)
  | illegalOpcode => exact specExec_reserved v a b op h

/-- EXEC succeeds, or a row of the table holds. -/
theorem specExec_ok_or_raisedWhen (v : PowVariant) (op : Opcode) (a b : Word) :
    (specExec v op a b).status = .ok ∨ ∃ e, RaisedWhen v op a b e := by
  rcases reserved_or_assigned op with h | rfl | rfl | rfl | rfl | rfl | rfl | rfl | rfl | rfl | rfl
  · exact .inr ⟨.illegalOpcode, h⟩
  · rcases Nat.lt_or_ge (2 ^ 128 - 1) a.toNat with hlarge | hfits
    · exact .inr ⟨.conversionOverflow, rfl, hlarge⟩
    · exact .inl (by rw [specExec_inttoq, inttoqOp_of_le a hfits, succeed_status])
  · by_cases hintegral : a.toNat % 2 ^ 64 = 0
    · exact .inl (by rw [specExec_qtoint, qtointOp_of_integral a hintegral, succeed_status])
    · exact .inr ⟨.truncatingDecimals, rfl, hintegral⟩
  · exact .inl (by rw [specExec_qtointl, qtointlOp_eq, succeed_status])
  · exact .inl (by rw [specExec_qfloor, qfloorOp_eq, succeed_status])
  · by_cases hintegral : a.toNat % 2 ^ 64 = 0
    · exact .inl (by rw [specExec_qceil, qceilOp_of_integral a hintegral, succeed_status])
    · rcases (Nat.le_sub_one_of_lt (toNat_div_lt a)).lt_or_eq with hbelow | htop
      · exact .inl (by rw [specExec_qceil, qceilOp_of_below_top a hintegral hbelow, succeed_status])
      · exact .inr ⟨.ceilOverflow, rfl, hintegral, htop⟩
  · rcases Nat.lt_or_ge (2 ^ 192 - 1) (a.toNat + b.toNat) with hcarry | hfits
    · exact .inr ⟨.additionOverflow, rfl, hcarry⟩
    · exact .inl (by rw [specExec_qadd, qaddOp_of_fits a b hfits, succeed_status])
  · rcases Nat.lt_or_ge a.toNat b.toNat with hborrow | hle
    · exact .inr ⟨.subtractionUnderflow, rfl, hborrow⟩
    · exact .inl (by rw [specExec_qsub, qsubOp_of_le a b hle, succeed_status])
  · rcases Nat.lt_or_ge (2 ^ 192 - 1) (a.toNat * b.toNat / 2 ^ 64) with hover | hfits
    · exact .inr ⟨.multiplicationOverflow, rfl, hover⟩
    · exact .inl (by rw [specExec_qmul, qmulOp_of_fits a b (by omega), succeed_status])
  · by_cases hb : b.toNat = 0
    · exact .inr ⟨.divisorZero, rfl, hb⟩
    · rcases Nat.lt_or_ge a.toNat (b.toNat * 2 ^ 128) with hfits | hover
      · exact .inl (by rw [specExec_qdiv, qdivOp_of_fits a b hfits, succeed_status])
      · exact .inr ⟨.divisionOverflow, rfl, hb, (quotient_overflows_iff _ hb).2 hover⟩
  · by_cases hfits : PowFits v a.toNat b.toNat
    · exact .inl (by rw [specExec_qpow, qpowOp_of_fits v a b hfits, succeed_status])
    · exact .inr ⟨.exponentiationOverflow, rfl, hfits⟩

/-- Each row of R140: EXEC's code is an error's exactly where its row holds. -/
theorem specExec_code_iff (v : PowVariant) (op : Opcode) (a b : Word) (e : Status) (he : e ≠ .ok) :
    (specExec v op a b).status.code = e.code ↔ RaisedWhen v op a b e := by
  constructor
  · intro hcode
    obtain rfl := code_injective hcode
    obtain ⟨e', hrow⟩ := (specExec_ok_or_raisedWhen v op a b).resolve_left he
    rwa [specExec_of_raisedWhen hrow]
  · intro hrow
    rw [specExec_of_raisedWhen hrow, raise_status]

/-- A failing EXEC leaves the result 0 (R144), told by the code. -/
theorem specExec_result_of_failed (v : PowVariant) (op : Opcode) (a b : Word)
    (h : (specExec v op a b).status.code ≠ 0) : (specExec v op a b).result = 0 :=
  specExec_precise v a b op (mt (Status.code_eq_zero_iff _).2 h)

/-! ## Where a step goes on -/

/-- A step goes on unless STS is illegal and `rst` = 0. -/
theorem stepGoesOn_of_not_broken (s : State) (h : ¬ (legalStatus s.sts = false ∧ s.now.rst = false)) :
    StepGoesOn s := by
  cases hr : s.now.rst with
  | true => exact ⟨_, step_of_reset s (event_of_rst s hr)⟩
  | false => exact stepGoesOn_of_legal s (eq_true_of_ne_false fun hl => h ⟨hl, hr⟩)

/-! ## Tier 2 -/

/-- Settles O36: the rows are those of `RaisedWhen`; the codes are legal, and a failure has result 0. -/
theorem statusTable : Obligations.StatusTable := by
  intro v op a b
  have hlegal := Status.code_legal (specExec v op a b).status
  have hrow := specExec_code_iff v op a b
  exact ⟨hrow .conversionOverflow (by decide), hrow .truncatingDecimals (by decide), hrow .additionOverflow (by decide),
    hrow .subtractionUnderflow (by decide), hrow .multiplicationOverflow (by decide), hrow .divisorZero (by decide),
    hrow .divisionOverflow (by decide), hrow .ceilOverflow (by decide), hrow .exponentiationOverflow (by decide),
    hrow .illegalOpcode (by decide), by omega, specExec_result_of_failed v op a b⟩

/-- Settles O38: the meaning completes with EXEC's response, which no field but the build bears on. -/
theorem everyInstructionCompletesPrecisely : Obligations.EveryInstructionCompletesPrecisely := by
  intro i s
  exact ⟨_, _, exec_eq_complete i s, (code_le_nine_iff _).2 (specExec_instr_ne_illegal _ i),
    specExec_result_of_failed _ _ _ _,
    fun sts res => exec_eq_complete i { s with sts := sts, res := res }⟩

/-- Settles O43: ACCEPT looks at no opcode, and EXEC of a reserved one is ILLEGAL_OPCODE. -/
theorem reservedOpcodeCompletesIllegal : Obligations.ReservedOpcodeCompletesIllegal := by
  intro s hl hr
  have hl := (legalStatus_iff s.sts).2 hl
  refine ⟨fun hb hv _ => step_of_accept s (event_of_request s hr hl hb hv), fun hb hs hreserved => ?_⟩
  rw [step_of_complete s (event_of_complete s hr hl hb hs), latchedResponse_of_reserved s hreserved]
  rfl

/-- Settles O54: a step that goes on is neither a fault nor a refusal. -/
theorem onlyReservedStatusFaults : Obligations.OnlyReservedStatusFaults := by
  intro s
  rw [← and_assoc, ← legalStatus_eq_false_iff]
  by_cases hbroken : legalStatus s.sts = false ∧ s.now.rst = false
  · have hfault := step_of_broken s (event_of_broken s hbroken.2 hbroken.1)
    exact ⟨iff_of_true hbroken hfault, by simp [hfault]⟩
  · obtain ⟨t, ht⟩ := stepGoesOn_of_not_broken s hbroken
    exact ⟨iff_of_false hbroken (by simp [ht]), by simp [ht]⟩

/-! ## Tier 1 -/

/-- Settles O37: `statusOfCode` gives the outcome back from its code. -/
theorem statusCodesAreDistinct : Obligations.StatusCodesAreDistinct := fun _ _ h => code_injective h

end Sys2Proof.Proofs

/-! # Proofs for the family of `70_reset_and_hazards.md`

RESET and the registers it leaves (R160, R162), the eventual completion of a command in flight (R168), and the host's read
of the response (R165, R167). -/

namespace Sys2Proof.Proofs

open Sys2Proof.Machine Sys2Proof.Safety

/-! ## The registers as reset left them (R162) -/

theorem untouched_resetRegisters (s : State) : Untouched s.resetRegisters := fun _ => ⟨rfl, rfl, rfl, rfl, rfl⟩

theorem untouched_advance (s : State) (h : Untouched s) : Untouched s.advance := by
  simpa [Untouched] using h

/-- A command in flight claims nothing. -/
theorem untouched_accept (c : Command) (s : State) : Untouched (s.accept c) := by
  simp [Untouched]

/-- A response present claims nothing. -/
theorem untouched_complete (r : Response) (s : State) : Untouched (s.complete r) := by
  simp [Untouched]

/-! ## A command in flight completes (R168) -/

/-- Once the stalls are used up, the run of a command in flight ends in its COMPLETE. -/
theorem run_complete_of_busy (s : State) (hb : s.busy = true) (hl : legalStatus s.sts = true) (hn : NoReset s) :
    ∃ k ≤ stallsAhead s + 1, ∃ u : State, Sys2Proof.core.run k s = .next (u.complete (latchedResponse s)) := by
  cases hs : s.now.stall with
  | true =>
    have hless : stallsAhead s.advance < stallsAhead s := by
      rw [stallsAhead_of_stall s hs]
      exact Nat.lt_succ_of_le (stallsAhead_advance_le s)
    have hwait := step_of_wait s (event_of_stall s hn.1 hl hb hs)
    obtain ⟨k, hk, u, hrun⟩ := run_complete_of_busy s.advance (by simpa using hb) (by simpa using hl)
      (noReset_advance s hn)
    rw [latchedResponse_advance] at hrun
    exact ⟨k + 1, by omega, u, (core_run_succ k s _ hwait).trans hrun⟩
  | false =>
    have hcomplete := step_of_complete s (event_of_complete s hn.1 hl hb hs)
    exact ⟨1, by omega, s.advance, core_run_succ 0 s _ hcomplete⟩
termination_by stallsAhead s

/-! ## The host's read (R165, R167) -/

theorem readResponse_of_done (s : State) (h : s.done = true) : s.readResponse = .ok (s.sts, s.res) := if_pos h

theorem readResponse_of_not_done (s : State) (h : s.done = false) : s.readResponse = .error .staleResponse := by
  simp [State.readResponse, State.rspDone, h]

theorem acceptedResult_of_done (s : State) (h : s.done = true) :
    s.acceptedResult = if s.sts = 0 then some s.res else none := by
  rw [State.acceptedResult, readResponse_of_done s h]

theorem acceptedResult_of_not_done (s : State) (h : s.done = false) : s.acceptedResult = none := by
  rw [State.acceptedResult, readResponse_of_not_done s h]

/-! ## Tier 2 -/

/-- Settles O52, by the four effects of a step: only RESET leaves BUSY = DONE = 0 where they were not. -/
theorem stepKeepsUntouched : Obligations.StepKeepsUntouched := by
  intro s t hu h
  rcases step_effects s t h with ⟨_, rfl⟩ | ⟨_, _, rfl⟩ | ⟨_, _, rfl⟩ | rfl
  · exact untouched_resetRegisters _
  · exact untouched_complete _ _
  · exact untouched_accept _ _
  · exact untouched_advance s hu

/-- Settles O55: the present drive adds at most one stall to those of the schedule. -/
theorem everyCommandCompletes : Obligations.EveryCommandCompletes := by
  intro s hl hb hn
  have hahead : stallsAhead s ≤ s.later.length + 1 := Nat.add_le_add_left (Bool.toNat_le _) _
  obtain ⟨k, hk, u, hrun⟩ := run_complete_of_busy s hb ((legalStatus_iff _).2 hl) hn
  exact ⟨k, by omega, u.complete (latchedResponse s), hrun, rfl, rfl, rfl, rfl⟩

/-! ## Tier 1 -/

/-- Settles O44: both enabling conditions ask for `rst` = 0, and the step is RESET. -/
theorem resetClearsRegisters : Obligations.ResetClearsRegisters := by
  refine ⟨fun s hr => ⟨?_, ?_, step_of_reset s (event_of_rst s hr)⟩, rfl, rfl, rfl, rfl, rfl, rfl, rfl, rfl⟩
  · simp [State.acceptEnabled, hr]
  · simp [State.completeEnabled, hr]

/-- Settles O57, by DONE. -/
theorem hostReadsOnlyPresentResponses : Obligations.HostReadsOnlyPresentResponses := by
  intro s r
  cases hd : s.done with
  | true =>
    rw [readResponse_of_done s hd, acceptedResult_of_done s hd]
    simp
  | false =>
    rw [readResponse_of_not_done s hd, acceptedResult_of_not_done s hd]
    simp

end Sys2Proof.Proofs
